-- ==== Sys2Proof/Word.lean ====
section
/-! DEFINITION. The widths of the unit's values (00_scope.md rule R11): bytes, 16-bit fields and 32-bit registers, all unsigned. -/

namespace Sys2Proof

/-- `u8`: a byte of a buffer, a kind, a record type, IMM8. -/
abbrev Byte := BitVec 8

/-- `u16`: a CRC, a payload length, a record offset or value. -/
abbrev Half := BitVec 16

/-- `u32`: a register, a command word, an image address. -/
abbrev Word := BitVec 32

end Sys2Proof
end

