-- ==== Sys2Proof/Config.lean ====
section
/-! DEFINITION. The fixed constants of R9 and R10, and the values the spec leaves open: `MAX_BLOCKS` (R10, OPEN) and the 32-bit reading of a frame count that does not fit in 32 bits (log entry 6). -/

namespace Sys2Proof.Config

/-- The start marker of every BeeCOM frame (R9). -/
abbrev startMarker : Byte := 0xA5#8

/-- The one byte of an ACK payload (R9, R90). -/
abbrev ackByte : Byte := 0x55#8

/-- The polynomial of the frame CRC, and the reset value of `CRC_POLY` (R9, R30). -/
abbrev framePoly : Half := 0x1021#16

/-- The initial value of the frame CRC, and the reset value of `CRC_INIT` and `CRC_ACC` (R9, R31). -/
abbrev frameInit : Half := 0x1D0F#16

/-- What a window image holds where no block covers (R9, R147). -/
abbrev gapFill : Byte := 0xFF#8

/-- Header plus CRC, the length of the shortest frame (R9). -/
abbrev minFrame : Nat := 6

/-- The bytes of address before each FlashData chunk (R9). -/
abbrev addrPrefix : Nat := 4

/-- The kind code of FlashData, the only kind the sequencer sends and accepts (R88, R89). -/
abbrev kindFlashData : Byte := 2#8

/-- The largest PacketKind code `FRM.ENC` frames (R121). -/
abbrev maxKind : Nat := 5

/-- The smallest legal `MAX_PAYLOAD`, the length of the metadata payload (R165). -/
abbrev minMaxPayload : Nat := 12

/-- `PCAP`: the capacity of PBUF, RPBUF and EXPBUF (R10). -/
abbrev pcap : Nat := 65535

/-- `FCAP`: the capacity of TXBUF and RXBUF (R10). -/
abbrev fcap : Nat := 65541

/-- `RD_CAP`: the capacity of RDBUF (R10). -/
abbrev rdCap : Nat := 255

/-- The length of DIGBUF, always (R51). -/
abbrev digestLen : Nat := 32

/-- The largest 32-bit number: no block may end above it (R40, R63). -/
abbrev u32Max : Nat := 0xFFFFFFFF

/-- `MAX_BLOCKS` less one. R10 leaves `MAX_BLOCKS` open, a positive number with `MAX_BLOCKS * RD_CAP <= 0xFFFFFFFF`, so
1 to 16843009: nothing in Lean can evaluate it (log entry 5). -/
opaque maxBlocksLessOne : Fin 16843009

/-- `MAX_BLOCKS`, the capacity of the block store (R10, R40). -/
def maxBlocks : Nat := maxBlocksLessOne.val + 1

/-- What the 32-bit registers `SEQ_IDX` and `SEQ_LEN` read when the count itself does not fit in 32 bits: the spec states
no result there (log entry 6). -/
opaque countBeyond32 : Nat → Word

end Sys2Proof.Config
end

