-- ==== Sys2Proof/Syntax.lean ====
section
/-! DEFINITION. The instruction set: one constructor per row of spec/opcode_table.json. -/

namespace Sys2Proof

/-- The 15 commands of R82, the six frame kinds of R88 and the six record types of R94.

IMM8 has its 8 bits in its type, so every term is a well-formed instruction. The kind and record rows are no command
words: they are the codes that `FRM.ENC` takes from `TX_KIND` and `IMG.REC` takes from `REC_CTRL.TYPE`, and each stands
here for what that command does with that code (log entry 2). -/
inductive Instr where
  | crcInit
  | crcByte (imm : Byte)
  | crcBuf
  | frmEnc
  | frmDec
  | frmVal
  | frmVack
  | imgClr
  | imgRec
  | imgWin
  | imgHash
  | mrgStart
  | mrgNext
  | mrgAck
  | mrgAbort (imm : Byte)
  | kindInvalid
  | kindFlashStart
  | kindFlashData
  | kindFlashMac
  | kindValidateFlash
  | kindSendSignature
  | recData
  | recExtSegment
  | recExtLinear
  | recEof
  | recStartSegment
  | recStartLinear
  deriving DecidableEq, Repr

end Sys2Proof
end

