-- ==== Sys2Proof/Decode.lean ====
section
/-! DEFINITION. The command decoder of R100, total on every 32-bit word and naming why it rejects one; the code tables of R88 and R94; the mnemonics of R82; and, after them, the encoder written from the encodings of R82, R88 and R94. -/

namespace Sys2Proof

/-- Why a word or a code is no instruction. -/
inductive Illegal where
  /-- `w[31:16]` is not zero (R83, 2). -/
  | reservedBits
  /-- `w[7:0]` is no OPC of R82 (R83, 1). -/
  | unknownOpcode
  /-- `w[15:8]` is not zero for a command without an immediate (R83, 3). -/
  | immediateNotZero
  /-- A kind byte that names no PacketKind (R88). -/
  | unnamedKind
  /-- A record type R94 does not name; `IMG.REC` ignores it. -/
  | unnamedRecord
  deriving DecidableEq, Repr

/-- What a decoder answers. -/
inductive Decoded where
  | instr (i : Instr)
  | illegal (why : Illegal)
  deriving DecidableEq, Repr

/-- An instruction in its encoded form: a command word, a kind byte, or a record type code. -/
inductive Encoded where
  | command (w : Word)
  | kindCode (b : Byte)
  | recordCode (b : Byte)
  deriving DecidableEq, Repr

/-- OPC, bits [7:0] of a command word (R81). -/
def opcOf (w : Word) : Byte := w.extractLsb' 0 8

/-- IMM8, bits [15:8] of a command word (R81, R84). -/
def immOf (w : Word) : Byte := w.extractLsb' 8 8

/-- RES, bits [31:16] of a command word (R81). -/
def resOf (w : Word) : Half := w.extractLsb' 16 16

/-- A command that takes no immediate: legal only with IMM8 = 0 (R100). -/
def plain (imm : Byte) (i : Instr) : Decoded :=
  if imm = 0#8 then .instr i else .illegal .immediateNotZero

/-- `decode_cmd` of R100. -/
def decode (w : Word) : Decoded :=
  if resOf w ≠ 0#16 then .illegal .reservedBits
  else
    match (opcOf w).toNat with
    | 0x01 => plain (immOf w) .crcInit
    | 0x02 => .instr (.crcByte (immOf w))
    | 0x03 => plain (immOf w) .crcBuf
    | 0x10 => plain (immOf w) .frmEnc
    | 0x11 => plain (immOf w) .frmDec
    | 0x12 => plain (immOf w) .frmVal
    | 0x13 => plain (immOf w) .frmVack
    | 0x20 => plain (immOf w) .imgClr
    | 0x21 => plain (immOf w) .imgRec
    | 0x22 => plain (immOf w) .imgWin
    | 0x23 => plain (immOf w) .imgHash
    | 0x30 => plain (immOf w) .mrgStart
    | 0x31 => plain (immOf w) .mrgNext
    | 0x32 => plain (immOf w) .mrgAck
    | 0x33 => .instr (.mrgAbort (immOf w))
    | _ => .illegal .unknownOpcode

/-- The PacketKind a kind byte names (R88). -/
def decodeKind (b : Byte) : Decoded :=
  match b.toNat with
  | 0 => .instr .kindInvalid
  | 1 => .instr .kindFlashStart
  | 2 => .instr .kindFlashData
  | 3 => .instr .kindFlashMac
  | 4 => .instr .kindValidateFlash
  | 5 => .instr .kindSendSignature
  | _ => .illegal .unnamedKind

/-- The record kind a type code names (R94). -/
def decodeRecord (b : Byte) : Decoded :=
  match b.toNat with
  | 0x00 => .instr .recData
  | 0x01 => .instr .recEof
  | 0x02 => .instr .recExtSegment
  | 0x03 => .instr .recStartSegment
  | 0x04 => .instr .recExtLinear
  | 0x05 => .instr .recStartLinear
  | _ => .illegal .unnamedRecord

/-- The decoder of each encoded form. -/
def decodeEncoded : Encoded → Decoded
  | .command w => decode w
  | .kindCode b => decodeKind b
  | .recordCode b => decodeRecord b

/-- A command word from its two fields, RES zero (R81). -/
def commandWord (opc imm : Byte) : Word := 0#16 ++ imm ++ opc

/-- The encoding of an instruction (R82, R88, R94). -/
def encode : Instr → Encoded
  | .crcInit => .command (commandWord 0x01#8 0#8)
  | .crcByte imm => .command (commandWord 0x02#8 imm)
  | .crcBuf => .command (commandWord 0x03#8 0#8)
  | .frmEnc => .command (commandWord 0x10#8 0#8)
  | .frmDec => .command (commandWord 0x11#8 0#8)
  | .frmVal => .command (commandWord 0x12#8 0#8)
  | .frmVack => .command (commandWord 0x13#8 0#8)
  | .imgClr => .command (commandWord 0x20#8 0#8)
  | .imgRec => .command (commandWord 0x21#8 0#8)
  | .imgWin => .command (commandWord 0x22#8 0#8)
  | .imgHash => .command (commandWord 0x23#8 0#8)
  | .mrgStart => .command (commandWord 0x30#8 0#8)
  | .mrgNext => .command (commandWord 0x31#8 0#8)
  | .mrgAck => .command (commandWord 0x32#8 0#8)
  | .mrgAbort imm => .command (commandWord 0x33#8 imm)
  | .kindInvalid => .kindCode 0#8
  | .kindFlashStart => .kindCode 1#8
  | .kindFlashData => .kindCode 2#8
  | .kindFlashMac => .kindCode 3#8
  | .kindValidateFlash => .kindCode 4#8
  | .kindSendSignature => .kindCode 5#8
  | .recData => .recordCode 0x00#8
  | .recExtSegment => .recordCode 0x02#8
  | .recExtLinear => .recordCode 0x04#8
  | .recEof => .recordCode 0x01#8
  | .recStartSegment => .recordCode 0x03#8
  | .recStartLinear => .recordCode 0x05#8

/-- The mnemonic of an instruction as spec/opcode_table.json spells it (R82, R96). -/
def mnemonic : Instr → String
  | .crcInit => "CRC.INIT"
  | .crcByte _ => "CRC.BYTE"
  | .crcBuf => "CRC.BUF"
  | .frmEnc => "FRM.ENC"
  | .frmDec => "FRM.DEC"
  | .frmVal => "FRM.VAL"
  | .frmVack => "FRM.VACK"
  | .imgClr => "IMG.CLR"
  | .imgRec => "IMG.REC"
  | .imgWin => "IMG.WIN"
  | .imgHash => "IMG.HASH"
  | .mrgStart => "MRG.START"
  | .mrgNext => "MRG.NEXT"
  | .mrgAck => "MRG.ACK"
  | .mrgAbort _ => "MRG.ABORT"
  | .kindInvalid => "KIND.Invalid"
  | .kindFlashStart => "KIND.FlashStart"
  | .kindFlashData => "KIND.FlashData"
  | .kindFlashMac => "KIND.FlashMac"
  | .kindValidateFlash => "KIND.ValidateFlash"
  | .kindSendSignature => "KIND.SendSignature"
  | .recData => "REC.DATA"
  | .recExtSegment => "REC.EXT_SEGMENT"
  | .recExtLinear => "REC.EXT_LINEAR"
  | .recEof => "REC.EOF"
  | .recStartSegment => "REC.START_SEGMENT"
  | .recStartLinear => "REC.START_LINEAR"

/-- The instruction of a decoder's answer, if it gives one. -/
def Decoded.toOption : Decoded → Option Instr
  | .instr i => some i
  | .illegal _ => none

/-- The instruction a word of spec/opcode_table.json stands for. A 32-bit row is a command word. The table gives the six
kind codes and the six record type codes the same 8-bit words 0 to 5: an 8-bit word is read as a record type, the code
that `IMG.REC` runs (log entry 3). No other length is a row. -/
def decodeTableWord (nbits w : Nat) : Option Instr :=
  if nbits = 32 then (if w < 2 ^ 32 then (decode (BitVec.ofNat 32 w)).toOption else none)
  else if nbits = 8 then (if w < 2 ^ 8 then (decodeRecord (BitVec.ofNat 8 w)).toOption else none)
  else none

end Sys2Proof
end

