-- ==== Sys2Proof/Machine/HostAction.lean ====
section
/-! DEFINITION. What the host can do to the unit, as data: the register map of R54, the seven buffers of R51 and the host actions of R61, R62, R97 and R220. -/

namespace Sys2Proof.Machine

/-- The registers of R54, in the order of their offsets. -/
inductive Reg where
  | cmd | status | crcAcc | crcPoly | crcInit | txKind | txCrc | rxHdr | rxCrc | expCtrl | recCtrl | recValue
  | imgBase | imgCount | winMin | winMax | maxPayload | chunkSize | metaMarker | appMin | appMax
  | progSent | progTotal | cursor | seqIdx | seqLen | abortCause
  | txLen | rxLen | pLen | rpLen | expLen | rdLen
  deriving DecidableEq, Repr

/-- The seven byte buffers of R51. -/
inductive Buffer where
  | pbuf | txbuf | rxbuf | rpbuf | expbuf | rdbuf | digbuf
  deriving DecidableEq, Repr

/-- One action of the host: a register write or read at an offset of the 256-byte register space (R61), a whole-buffer
load or read (R62), or the reset event (R220). A byte or halfword register access has no constructor: R61 says it is not
a move the host can make. -/
inductive HostAction where
  | writeReg (offset : Byte) (value : Word)
  | readReg (offset : Byte)
  | load (buffer : Buffer) (bytes : List Byte)
  | readBuf (buffer : Buffer)
  | reset
  deriving DecidableEq, Repr

/-- What the host's latest read returned: nothing read yet, a register's value, or a buffer's whole content. -/
inductive HostReply where
  | none
  | word (w : Word)
  | bytes (b : List Byte)
  deriving DecidableEq, Repr

/-- The offset of a register (R54). -/
def Reg.offset : Reg → Byte
  | .cmd => 0x00#8
  | .status => 0x04#8
  | .crcAcc => 0x08#8
  | .crcPoly => 0x0C#8
  | .crcInit => 0x10#8
  | .txKind => 0x14#8
  | .txCrc => 0x18#8
  | .rxHdr => 0x1C#8
  | .rxCrc => 0x20#8
  | .expCtrl => 0x24#8
  | .recCtrl => 0x28#8
  | .recValue => 0x2C#8
  | .imgBase => 0x30#8
  | .imgCount => 0x34#8
  | .winMin => 0x38#8
  | .winMax => 0x3C#8
  | .maxPayload => 0x40#8
  | .chunkSize => 0x44#8
  | .metaMarker => 0x48#8
  | .appMin => 0x4C#8
  | .appMax => 0x50#8
  | .progSent => 0x54#8
  | .progTotal => 0x58#8
  | .cursor => 0x5C#8
  | .seqIdx => 0x60#8
  | .seqLen => 0x64#8
  | .abortCause => 0x68#8
  | .txLen => 0x6C#8
  | .rxLen => 0x70#8
  | .pLen => 0x74#8
  | .rpLen => 0x78#8
  | .expLen => 0x7C#8
  | .rdLen => 0x80#8

/-- The register at an offset; none at an offset R54 leaves unmapped. -/
def Reg.ofOffset (offset : Byte) : Option Reg :=
  match offset.toNat with
  | 0x00 => some .cmd
  | 0x04 => some .status
  | 0x08 => some .crcAcc
  | 0x0C => some .crcPoly
  | 0x10 => some .crcInit
  | 0x14 => some .txKind
  | 0x18 => some .txCrc
  | 0x1C => some .rxHdr
  | 0x20 => some .rxCrc
  | 0x24 => some .expCtrl
  | 0x28 => some .recCtrl
  | 0x2C => some .recValue
  | 0x30 => some .imgBase
  | 0x34 => some .imgCount
  | 0x38 => some .winMin
  | 0x3C => some .winMax
  | 0x40 => some .maxPayload
  | 0x44 => some .chunkSize
  | 0x48 => some .metaMarker
  | 0x4C => some .appMin
  | 0x50 => some .appMax
  | 0x54 => some .progSent
  | 0x58 => some .progTotal
  | 0x5C => some .cursor
  | 0x60 => some .seqIdx
  | 0x64 => some .seqLen
  | 0x68 => some .abortCause
  | 0x6C => some .txLen
  | 0x70 => some .rxLen
  | 0x74 => some .pLen
  | 0x78 => some .rpLen
  | 0x7C => some .expLen
  | 0x80 => some .rdLen
  | _ => none

/-- A register access is at a multiple of 4 (R61). -/
def aligned (offset : Byte) : Bool := offset.toNat % 4 == 0

/-- The capacity of a buffer (R51). -/
def Buffer.capacity : Buffer → Nat
  | .pbuf => Config.pcap
  | .txbuf => Config.fcap
  | .rxbuf => Config.fcap
  | .rpbuf => Config.pcap
  | .expbuf => Config.pcap
  | .rdbuf => Config.rdCap
  | .digbuf => Config.digestLen

/-- The buffers the host may load (R62). -/
def Buffer.loadable : Buffer → Bool
  | .pbuf => true
  | .rxbuf => true
  | .expbuf => true
  | .rdbuf => true
  | .txbuf => false
  | .rpbuf => false
  | .digbuf => false

end Sys2Proof.Machine
end

