-- ==== Sys2Proof/Machine/State.lean ====
section
/-! DEFINITION. The unit's architectural state (R20, R53, R54), the host's port beside it, the values after reset (R56), and the reasons a step can stop. -/

namespace Sys2Proof.Machine

/-- The completion codes `STATUS.ERR` can hold, in the order of their numbers (R191). No other code exists. -/
inductive ErrCode where
  | ok
  | frameShort
  | lenMismatch
  | badMarker
  | unexpKind
  | unexpPayload
  | crcMismatch
  | invalidWindow
  | noData
  | noFrame
  | badKind
  | addrRange
  | blockFull
  | badConfig
  | seqState
  | illegalCmd
  | hostAbort
  deriving DecidableEq, Repr

/-- The states of the flash-frame sequencer, in the order of their numbers (R26). The values 5 to 7 are never held. -/
inductive SeqState where
  | idle
  | ready
  | await
  | done
  | failed
  deriving DecidableEq, Repr

/-- A firmware block (R14, R40). -/
structure Block where
  addr : Word
  data : List Byte
  deriving DecidableEq, Repr

/-- The tag of an entry of `SEQ_FRAMES` (R53). -/
inductive EntryTag where
  | firmware
  | metadata
  deriving DecidableEq, Repr

/-- An entry of `SEQ_FRAMES`: tag DATA or META, the address, the chunk's bytes, the complete encoded frame (R53). -/
structure SeqEntry where
  tag : EntryTag
  addr : Word
  data : List Byte
  frame : List Byte
  deriving DecidableEq, Repr

/-- The host's side of the port, no part of the unit (R57): the host actions still to come, first one next, and what
the host's latest read returned (log entry 1). -/
structure HostPort where
  pending : List HostAction
  reply : HostReply
  deriving DecidableEq, Repr

/-- The whole state. A register is held as its defined fields (R54, R55), so the bits outside them read 0; a register
that mirrors a length (`IMG_COUNT`, `SEQ_LEN` and the six of R52) is a view of what it counts and is not held twice. -/
structure State where
  /-- `CMD`: the last word written, reserved bits included (R21). -/
  cmd : Word
  /-- `STATUS.ERR` (R25). -/
  err : ErrCode
  /-- `STATUS.SEQ` (R26). -/
  seq : SeqState
  /-- `STATUS.DEC_VALID` (R27). -/
  decValid : Bool
  /-- `STATUS.DIG_VALID` (R28). -/
  digValid : Bool
  /-- `CRC_ACC[15:0]` (R29). -/
  crcAcc : Half
  /-- `CRC_POLY[15:0]` (R30). -/
  crcPoly : Half
  /-- `CRC_INIT[15:0]` (R31). -/
  crcInit : Half
  /-- `TX_KIND[7:0]` (R32). -/
  txKind : Byte
  /-- `TX_CRC[15:0]` (R33). -/
  txCrc : Half
  /-- `RX_HDR.MARKER` (R34). -/
  rxMarker : Byte
  /-- `RX_HDR.KIND` (R34). -/
  rxKind : Byte
  /-- `RX_HDR.LEN` (R34). -/
  rxHdrLen : Half
  /-- `RX_CRC[15:0]` (R35). -/
  rxCrc : Half
  /-- `EXP_CTRL.KIND_EN` (R36). -/
  kindEn : Bool
  /-- `EXP_CTRL.PAYLOAD_EN` (R36). -/
  payloadEn : Bool
  /-- `EXP_CTRL.EXP_KIND` (R36). -/
  expKind : Byte
  /-- `REC_CTRL.TYPE` (R37). -/
  recType : Byte
  /-- `REC_CTRL.OFFSET` (R37). -/
  recOffset : Half
  /-- `REC_VALUE[15:0]` (R38). -/
  recValue : Half
  /-- `IMG_BASE` (R39). -/
  imgBase : Word
  /-- `WIN_MIN` (R42). -/
  winMin : Word
  /-- `WIN_MAX` (R42). -/
  winMax : Word
  /-- `MAX_PAYLOAD[15:0]` (R43). -/
  maxPayload : Half
  /-- `CHUNK_SIZE[15:0]` (R44). -/
  chunkSize : Half
  /-- `META_MARKER` (R45). -/
  metaMarker : Word
  /-- `APP_MIN` (R46). -/
  appMin : Word
  /-- `APP_MAX` (R46). -/
  appMax : Word
  /-- `PROG_SENT` (R47). -/
  progSent : Word
  /-- `PROG_TOTAL` (R47). -/
  progTotal : Word
  /-- `CURSOR` (R48). -/
  cursor : Word
  /-- `SEQ_IDX`, an index into `SEQ_FRAMES` (R49); the register reads it as 32 bits. -/
  seqIdx : Nat
  /-- `ABORT_CAUSE[7:0]` (R50). -/
  abortCause : Byte
  /-- PBUF (R51). -/
  pbuf : List Byte
  /-- TXBUF (R51). -/
  txbuf : List Byte
  /-- RXBUF (R51). -/
  rxbuf : List Byte
  /-- RPBUF (R51). -/
  rpbuf : List Byte
  /-- EXPBUF (R51). -/
  expbuf : List Byte
  /-- RDBUF (R51). -/
  rdbuf : List Byte
  /-- DIGBUF (R51). -/
  digbuf : List Byte
  /-- The block store `BLK`, in record order (R40). -/
  blk : List Block
  /-- The frame list `SEQ_FRAMES` (R53). -/
  seqFrames : List SeqEntry
  /-- The host's side of the port: the MODEL's own field (log entry 1). -/
  port : HostPort
  deriving DecidableEq, Repr

/-- The state after reset (R56, R220), with no host action pending and nothing read. -/
def State.reset : State where
  cmd := 0#32
  err := .ok
  seq := .idle
  decValid := false
  digValid := false
  crcAcc := 0x1D0F#16
  crcPoly := 0x1021#16
  crcInit := 0x1D0F#16
  txKind := 0#8
  txCrc := 0#16
  rxMarker := 0#8
  rxKind := 0#8
  rxHdrLen := 0#16
  rxCrc := 0#16
  kindEn := false
  payloadEn := false
  expKind := 0#8
  recType := 0#8
  recOffset := 0#16
  recValue := 0#16
  imgBase := 0#32
  winMin := 0#32
  winMax := 0#32
  maxPayload := 0x0100#16
  chunkSize := 0x00FC#16
  metaMarker := 0#32
  appMin := 0#32
  appMax := 0#32
  progSent := 0#32
  progTotal := 0#32
  cursor := 0#32
  seqIdx := 0
  abortCause := 0#8
  pbuf := []
  txbuf := []
  rxbuf := []
  rpbuf := []
  expbuf := []
  rdbuf := []
  digbuf := List.replicate Config.digestLen 0#8
  blk := []
  seqFrames := []
  port := { pending := [], reply := .none }

/-- Why the machine is stuck: what the host attempted has no step in the spec, or a state no run from reset reaches was
given. All are safe: the model stops where the spec gives no transition. -/
inductive Fault where
  /-- Raised by the register port for an access that is not at a multiple of 4 (R61: "the model has no step for it"). Safe. -/
  | misalignedRegister
  /-- Raised by the buffer port for a load into TXBUF, RPBUF or DIGBUF (R62: "has no step"). Safe. -/
  | bufferNotLoadable
  /-- Raised by the buffer port for a load longer than the buffer's capacity (R62: "has no step"). Safe. -/
  | loadAboveCapacity
  /-- Raised by `MRG.NEXT` and `MRG.ACK` when `SEQ_IDX` selects no entry of `SEQ_FRAMES`; R167 says it selects one
  whenever a frame is due, so no run reaches this. Safe. -/
  | noSuchEntry
  /-- Raised by `MRG.NEXT` for an entry whose frame is too short to hold a CRC; every planned frame has 6 bytes or more
  (R164), so no run reaches this. Safe. -/
  | entryWithoutCrc
  deriving DecidableEq, Repr

/-- Why the model gives an instruction no meaning. -/
inductive Refusal where
  /-- Raised by `exec` for an instruction without a meaning; no arm of it is left. Safe. -/
  | notModelled (mnemonic : String)
  deriving DecidableEq, Repr

/-- The outcome of one command or one step. -/
abbrev Outcome := Host.Outcome State Fault Refusal

end Sys2Proof.Machine
end

