-- ==== Sys2Proof/Machine/Flags.lean ====
section
/-! DEFINITION. The fields of `STATUS` (R24 to R28, R191) and the questions commands ask of them. The unit has no condition codes (R58). -/

namespace Sys2Proof.Machine

/-- The number of a completion code (R191). -/
def ErrCode.code : ErrCode → Byte
  | .ok => 0x00#8
  | .frameShort => 0x01#8
  | .lenMismatch => 0x02#8
  | .badMarker => 0x03#8
  | .unexpKind => 0x04#8
  | .unexpPayload => 0x05#8
  | .crcMismatch => 0x06#8
  | .invalidWindow => 0x07#8
  | .noData => 0x08#8
  | .noFrame => 0x09#8
  | .badKind => 0x0A#8
  | .addrRange => 0x0B#8
  | .blockFull => 0x0C#8
  | .badConfig => 0x0D#8
  | .seqState => 0x0E#8
  | .illegalCmd => 0x0F#8
  | .hostAbort => 0x10#8

/-- The number of a sequencer state (R26). -/
def SeqState.code : SeqState → BitVec 3
  | .idle => 0#3
  | .ready => 1#3
  | .await => 2#3
  | .done => 3#3
  | .failed => 4#3

/-- A sequence is active in READY and AWAIT (R228). -/
def SeqState.active : SeqState → Bool
  | .ready => true
  | .await => true
  | .idle => false
  | .done => false
  | .failed => false

/-- `STATUS`: ERR [7:0], SEQ [10:8], DEC_VALID [11], DIG_VALID [12], the rest 0 (R24). -/
def statusWord (s : State) : Word :=
  0#19 ++ BitVec.ofBool s.digValid ++ BitVec.ofBool s.decValid ++ s.seq.code ++ s.err.code

end Sys2Proof.Machine
end

