-- ==== Sys2Proof/Machine/Operands.lean ====
section
/-! DEFINITION. Operand forms: the byte orders of R12 and R64 to R65, the packing of register fields into 32-bit words (R54, R84), and the register map as reads and writes (R55). -/

namespace Sys2Proof.Machine

/-- `le16` (R12). -/
def le16 (v : Half) : List Byte := [v.extractLsb' 0 8, v.extractLsb' 8 8]

/-- `le32` (R12). -/
def le32 (v : Word) : List Byte :=
  [v.extractLsb' 0 8, v.extractLsb' 8 8, v.extractLsb' 16 8, v.extractLsb' 24 8]

/-- `be32` (R12). -/
def be32 (v : Word) : List Byte :=
  [v.extractLsb' 24 8, v.extractLsb' 16 8, v.extractLsb' 8 8, v.extractLsb' 0 8]

/-- The byte at an index the sequence has: callers check the length first. -/
def byteAt (s : List Byte) (i : Nat) : Byte := s.getD i 0#8

/-- `rdle16(s, i)` (R12), for `i + 1 < |s|`. -/
def rdle16 (s : List Byte) (i : Nat) : Half := byteAt s (i + 1) ++ byteAt s i

/-- A 32-bit reading of a count: the count itself, and where 32 bits cannot hold it, a value the spec does not state
(log entry 6). -/
def countWord (n : Nat) : Word :=
  if n ≤ Config.u32Max then BitVec.ofNat 32 n else Config.countBeyond32 n

/-- `RX_HDR`: MARKER [7:0], KIND [15:8], LEN [31:16] (R34). -/
def rxHdrWord (s : State) : Word := s.rxHdrLen ++ s.rxKind ++ s.rxMarker

/-- `EXP_CTRL`: KIND_EN [0], PAYLOAD_EN [1], EXP_KIND [15:8], the rest 0 (R36). -/
def expCtrlWord (s : State) : Word :=
  0#16 ++ s.expKind ++ 0#6 ++ BitVec.ofBool s.payloadEn ++ BitVec.ofBool s.kindEn

/-- `REC_CTRL`: TYPE [7:0], OFFSET [31:16], the rest 0 (R37). -/
def recCtrlWord (s : State) : Word := s.recOffset ++ 0#8 ++ s.recType

/-- The value of a register (R54). -/
def readReg (r : Reg) (s : State) : Word :=
  match r with
  | .cmd => s.cmd
  | .status => statusWord s
  | .crcAcc => s.crcAcc.zeroExtend 32
  | .crcPoly => s.crcPoly.zeroExtend 32
  | .crcInit => s.crcInit.zeroExtend 32
  | .txKind => s.txKind.zeroExtend 32
  | .txCrc => s.txCrc.zeroExtend 32
  | .rxHdr => rxHdrWord s
  | .rxCrc => s.rxCrc.zeroExtend 32
  | .expCtrl => expCtrlWord s
  | .recCtrl => recCtrlWord s
  | .recValue => s.recValue.zeroExtend 32
  | .imgBase => s.imgBase
  | .imgCount => countWord s.blk.length
  | .winMin => s.winMin
  | .winMax => s.winMax
  | .maxPayload => s.maxPayload.zeroExtend 32
  | .chunkSize => s.chunkSize.zeroExtend 32
  | .metaMarker => s.metaMarker
  | .appMin => s.appMin
  | .appMax => s.appMax
  | .progSent => s.progSent
  | .progTotal => s.progTotal
  | .cursor => s.cursor
  | .seqIdx => countWord s.seqIdx
  | .seqLen => countWord s.seqFrames.length
  | .abortCause => s.abortCause.zeroExtend 32
  | .txLen => countWord s.txbuf.length
  | .rxLen => countWord s.rxbuf.length
  | .pLen => countWord s.pbuf.length
  | .rpLen => countWord s.rpbuf.length
  | .expLen => countWord s.expbuf.length
  | .rdLen => countWord s.rdbuf.length

/-- What a host read at an offset returns: the register there, 0 where none is mapped (R55, 3). -/
def readOffset (offset : Byte) (s : State) : Word :=
  match Reg.ofOffset offset with
  | some r => readReg r s
  | none => 0#32

/-- A host write stores a register's defined fields and discards the other bits (R55, 1); `CMD` stores all 32 bits
(R21); a write to a read-only register is ignored (R55, 2). -/
def writeReg (r : Reg) (v : Word) (s : State) : State :=
  match r with
  | .cmd => { s with cmd := v }
  | .crcAcc => { s with crcAcc := v.extractLsb' 0 16 }
  | .crcPoly => { s with crcPoly := v.extractLsb' 0 16 }
  | .crcInit => { s with crcInit := v.extractLsb' 0 16 }
  | .txKind => { s with txKind := v.extractLsb' 0 8 }
  | .expCtrl => { s with kindEn := v.getLsbD 0, payloadEn := v.getLsbD 1, expKind := v.extractLsb' 8 8 }
  | .recCtrl => { s with recType := v.extractLsb' 0 8, recOffset := v.extractLsb' 16 16 }
  | .recValue => { s with recValue := v.extractLsb' 0 16 }
  | .winMin => { s with winMin := v }
  | .winMax => { s with winMax := v }
  | .maxPayload => { s with maxPayload := v.extractLsb' 0 16 }
  | .chunkSize => { s with chunkSize := v.extractLsb' 0 16 }
  | .metaMarker => { s with metaMarker := v }
  | .status => s
  | .txCrc => s
  | .rxHdr => s
  | .rxCrc => s
  | .imgBase => s
  | .imgCount => s
  | .appMin => s
  | .appMax => s
  | .progSent => s
  | .progTotal => s
  | .cursor => s
  | .seqIdx => s
  | .seqLen => s
  | .abortCause => s
  | .txLen => s
  | .rxLen => s
  | .pLen => s
  | .rpLen => s
  | .expLen => s
  | .rdLen => s

/-- What a host write at an offset stores: nothing at an unmapped offset (R55, 2). -/
def writeOffset (offset : Byte) (v : Word) (s : State) : State :=
  match Reg.ofOffset offset with
  | some r => writeReg r v s
  | none => s

end Sys2Proof.Machine
end

