-- ==== Sys2Proof/Machine/Ops.lean ====
section
/-! DEFINITION. The named operations the meanings share: buffers as byte sequences (R13, R51), the content of an image address (R60, R148), and how a command ends, with success or with an error (R13, R190, R195). -/

namespace Sys2Proof.Machine

/-- The content of a buffer (R51). -/
def State.buf (s : State) : Buffer → List Byte
  | .pbuf => s.pbuf
  | .txbuf => s.txbuf
  | .rxbuf => s.rxbuf
  | .rpbuf => s.rpbuf
  | .expbuf => s.expbuf
  | .rdbuf => s.rdbuf
  | .digbuf => s.digbuf

/-- `BUF <- bytes`: the whole content and length are replaced (R13). -/
def State.setBuf (s : State) (b : Buffer) (bytes : List Byte) : State :=
  match b with
  | .pbuf => { s with pbuf := bytes }
  | .txbuf => { s with txbuf := bytes }
  | .rxbuf => { s with rxbuf := bytes }
  | .rpbuf => { s with rpbuf := bytes }
  | .expbuf => { s with expbuf := bytes }
  | .rdbuf => { s with rdbuf := bytes }
  | .digbuf => { s with digbuf := bytes }

/-- `MemRead(buf, off, n)` (R13), for `off + n <= |buf|`. -/
def memRead (buf : List Byte) (off n : Nat) : List Byte := (buf.drop off).take n

/-- `MemWrite(buf, off, |v|, v)` (R13), for `off + |v| <= |buf|`. -/
def memWrite (buf : List Byte) (off : Nat) (v : List Byte) : List Byte :=
  buf.take off ++ v ++ buf.drop (off + v.length)

/-- The canonical form of the unit's memory: every buffer within its capacity, DIGBUF of exactly 32 bytes (R51). -/
def Memory.wf (s : State) : Bool :=
  decide (s.pbuf.length ≤ Config.pcap) && decide (s.txbuf.length ≤ Config.fcap)
    && decide (s.rxbuf.length ≤ Config.fcap) && decide (s.rpbuf.length ≤ Config.pcap)
    && decide (s.expbuf.length ≤ Config.pcap) && decide (s.rdbuf.length ≤ Config.rdCap)
    && decide (s.digbuf.length = Config.digestLen)

/-- The exclusive end of a block, computed exactly (R40). -/
def Block.stop (b : Block) : Nat := b.addr.toNat + b.data.length

/-- The content a block gives an image address, if it covers it (R67). -/
def Block.byte (b : Block) (x : Nat) : Option Byte :=
  if b.addr.toNat ≤ x then b.data[x - b.addr.toNat]? else none

/-- The content of an image address: that of the last block in stream order that covers it (R60, R148). -/
def imageByte : List Block → Nat → Option Byte
  | [], _ => none
  | b :: bs, x => (imageByte bs x).or (b.byte x)

/-- The total number of bytes of a block sequence (R166, `PROG_TOTAL`). -/
def totalBytes (bs : List Block) : Nat := (bs.map (fun b => b.data.length)).sum

/-- `STATUS.ERR <- e`. -/
def State.withErr (s : State) (e : ErrCode) : State := { s with err := e }

/-- The end of a command without `raise`: `STATUS.ERR <- 0` (R13). -/
def succeed (s : State) : Outcome := .next (s.withErr .ok)

/-- `raise e`: the command ends at once, `STATUS.ERR` holds the code of `e`, and nothing else changes but what the
command's rule wrote before (R13, R195). The unit has no trap: no control is transferred, no state is saved, and there
is no return (R190, R196). -/
def raise (e : ErrCode) (s : State) : Outcome := .next (s.withErr e)

/-- A TXBUF write: the frame, and in `TX_CRC` its last two bytes read little-endian (R33, R121, R167). -/
def State.storeTx (s : State) (frame : List Byte) : State :=
  { s with txbuf := frame, txCrc := rdle16 frame (frame.length - 2) }

end Sys2Proof.Machine
end

