-- ==== Sys2Proof/Machine/Crc.lean ====
section
/-! DEFINITION. The CRC engine (40_crc.md): the CRC function, the frame CRC, and the commands CRC.INIT, CRC.BYTE and CRC.BUF. -/

namespace Sys2Proof.Machine

/-- One shift of the accumulator: the polynomial is XORed in after the shift, and only if bit 15 was 1 before it (R110). -/
def crcShift (poly acc : Half) : Half :=
  if acc.msb then (acc <<< 1) ^^^ poly else acc <<< 1

/-- `crc_step` (R110): XOR the byte into the top byte, then shift eight times. -/
def crcStep (acc : Half) (b : Byte) (poly : Half) : Half :=
  Nat.iterate (crcShift poly) 8 (acc ^^^ (b.zeroExtend 16 <<< 8))

/-- `crc16` (R111), over the bytes in sequence order. -/
def crc16 (data : List Byte) (poly init : Half) : Half :=
  data.foldl (fun acc b => crcStep acc b poly) init

/-- `frame_crc` (R112): fixed constants, whatever the CRC registers hold. -/
def frameCrc (s : List Byte) : Half := crc16 s Config.framePoly Config.frameInit

/-- `CRC.INIT` (R113). -/
def execCrcInit (s : State) : Outcome := succeed { s with crcAcc := s.crcInit }

/-- `CRC.BYTE b` (R114). -/
def execCrcByte (b : Byte) (s : State) : Outcome := succeed { s with crcAcc := crcStep s.crcAcc b s.crcPoly }

/-- `CRC.BUF` (R115): over all of PBUF, from `CRC_INIT`. -/
def execCrcBuf (s : State) : Outcome := succeed { s with crcAcc := crc16 s.pbuf s.crcPoly s.crcInit }

end Sys2Proof.Machine
end

