-- ==== Sys2Proof/Machine/Frame.lean ====
section
/-! DEFINITION. The frame codec (41_frame.md): encode, decode and validate, the commands FRM.ENC, FRM.DEC, FRM.VAL and FRM.VACK, and the six frame kinds of R88 as FRM.ENC frames them. -/

namespace Sys2Proof.Machine

/-- A decoded packet (R14). -/
structure Packet where
  marker : Byte
  kind : Byte
  len : Half
  payload : List Byte
  crcRx : Half
  deriving DecidableEq, Repr

/-- The bytes a frame's CRC covers: marker, kind, length, payload (R87). -/
def frameHead (marker kind : Byte) (len : Half) (payload : List Byte) : List Byte :=
  [marker, kind] ++ le16 len ++ payload

/-- `encode` (R120), for a payload of at most 65535 bytes. -/
def encodeFrame (kind : Byte) (payload : List Byte) : List Byte :=
  let head := frameHead Config.startMarker kind (BitVec.ofNat 16 payload.length) payload
  head ++ le16 (frameCrc head)

/-- `decode` (R122): only the length is checked, the short check first. -/
def decodeFrame (f : List Byte) : Except ErrCode Packet :=
  if f.length < Config.minFrame then .error .frameShort
  else if (rdle16 f 2).toNat ≠ f.length - Config.minFrame then .error .lenMismatch
  else
    let n := f.length - Config.minFrame
    .ok { marker := byteAt f 0, kind := byteAt f 1, len := rdle16 f 2, payload := memRead f 4 n, crcRx := rdle16 f (4 + n) }

/-- `validate` (R124): marker, kind, payload, CRC, in this order; `.ok` when all hold. -/
def validate (p : Packet) (expectedKind : Option Byte) (expectedPayload : Option (List Byte)) : ErrCode :=
  if p.marker ≠ Config.startMarker then .badMarker
  else if expectedKind.any (fun k => p.kind != k) then .unexpKind
  else if expectedPayload.any (fun e => p.payload != e) then .unexpPayload
  else if frameCrc (frameHead p.marker p.kind p.len p.payload) ≠ p.crcRx then .crcMismatch
  else .ok

/-- The ACK payload (R90). -/
def ackPayload : List Byte := [Config.ackByte]

/-- The decoded-packet registers as a successful decode writes them, DEC_VALID set (R123). -/
def State.storePacket (s : State) (p : Packet) : State :=
  { s with rxMarker := p.marker, rxKind := p.kind, rxHdrLen := p.len, rxCrc := p.crcRx, rpbuf := p.payload, decValid := true }

/-- The packet the decoded-packet registers hold (R125). -/
def State.packet (s : State) : Packet :=
  { marker := s.rxMarker, kind := s.rxKind, len := s.rxHdrLen, payload := s.rpbuf, crcRx := s.rxCrc }

/-- PBUF framed with a kind code into TXBUF, its CRC into `TX_CRC` (R121). -/
def frameKind (kind : Byte) (s : State) : Outcome := succeed (s.storeTx (encodeFrame kind s.pbuf))

/-- The decoded packet validated, or `E_NO_FRAME` if there is none (R125, R126). -/
def validateDecoded (expectedKind : Option Byte) (expectedPayload : Option (List Byte)) (s : State) : Outcome :=
  if s.decValid then
    match validate s.packet expectedKind expectedPayload with
    | .ok => succeed s
    | e => raise e s
  else raise .noFrame s

/-- `FRM.ENC` (R121). -/
def execFrmEnc (s : State) : Outcome :=
  if s.txKind.toNat > Config.maxKind then raise .badKind s else frameKind s.txKind s

/-- `FRM.DEC` (R123). -/
def execFrmDec (s : State) : Outcome :=
  match decodeFrame s.rxbuf with
  | .error e => raise e { s with decValid := false }
  | .ok p => succeed (s.storePacket p)

/-- `FRM.VAL` (R125). -/
def execFrmVal (s : State) : Outcome :=
  validateDecoded (if s.kindEn then some s.expKind else none) (if s.payloadEn then some s.expbuf else none) s

/-- `FRM.VACK` (R126). -/
def execFrmVack (s : State) : Outcome := validateDecoded (some s.expKind) (some ackPayload) s

/-- Kind 0, Invalid: framed like any other kind (R88, R121). -/
def execKindInvalid (s : State) : Outcome := frameKind 0#8 s

/-- Kind 1, FlashStart (R88). -/
def execKindFlashStart (s : State) : Outcome := frameKind 1#8 s

/-- Kind 2, FlashData (R88). -/
def execKindFlashData (s : State) : Outcome := frameKind 2#8 s

/-- Kind 3, FlashMac (R88). -/
def execKindFlashMac (s : State) : Outcome := frameKind 3#8 s

/-- Kind 4, ValidateFlash (R88). -/
def execKindValidateFlash (s : State) : Outcome := frameKind 4#8 s

/-- Kind 5, SendSignature (R88). -/
def execKindSendSignature (s : State) : Outcome := frameKind 5#8 s

end Sys2Proof.Machine
end

