-- ==== Sys2Proof/Machine/Sha256.lean ====
section
/-! DEFINITION. `SHA256`, the digest function R10 and R151 name: SHA-256 of FIPS 180-4. The spec names the function and does not define it; the definition is PRESUMED (log entry 4), and 95_test_vectors.md pins digests it must give. -/

namespace Sys2Proof.Machine.Sha256

/-- The sixty-four round constants, first half. -/
def roundConstantsLow : List Word :=
  [0x428a2f98#32, 0x71374491#32, 0xb5c0fbcf#32, 0xe9b5dba5#32, 0x3956c25b#32, 0x59f111f1#32, 0x923f82a4#32, 0xab1c5ed5#32,
   0xd807aa98#32, 0x12835b01#32, 0x243185be#32, 0x550c7dc3#32, 0x72be5d74#32, 0x80deb1fe#32, 0x9bdc06a7#32, 0xc19bf174#32,
   0xe49b69c1#32, 0xefbe4786#32, 0x0fc19dc6#32, 0x240ca1cc#32, 0x2de92c6f#32, 0x4a7484aa#32, 0x5cb0a9dc#32, 0x76f988da#32,
   0x983e5152#32, 0xa831c66d#32, 0xb00327c8#32, 0xbf597fc7#32, 0xc6e00bf3#32, 0xd5a79147#32, 0x06ca6351#32, 0x14292967#32]

/-- The sixty-four round constants, second half. -/
def roundConstantsHigh : List Word :=
  [0x27b70a85#32, 0x2e1b2138#32, 0x4d2c6dfc#32, 0x53380d13#32, 0x650a7354#32, 0x766a0abb#32, 0x81c2c92e#32, 0x92722c85#32,
   0xa2bfe8a1#32, 0xa81a664b#32, 0xc24b8b70#32, 0xc76c51a3#32, 0xd192e819#32, 0xd6990624#32, 0xf40e3585#32, 0x106aa070#32,
   0x19a4c116#32, 0x1e376c08#32, 0x2748774c#32, 0x34b0bcb5#32, 0x391c0cb3#32, 0x4ed8aa4a#32, 0x5b9cca4f#32, 0x682e6ff3#32,
   0x748f82ee#32, 0x78a5636f#32, 0x84c87814#32, 0x8cc70208#32, 0x90befffa#32, 0xa4506ceb#32, 0xbef9a3f7#32, 0xc67178f2#32]

/-- The eight working words of the hash. -/
structure Chain where
  a : Word
  b : Word
  c : Word
  d : Word
  e : Word
  f : Word
  g : Word
  h : Word
  deriving DecidableEq, Repr

/-- The initial hash value. -/
def start : Chain :=
  { a := 0x6a09e667#32, b := 0xbb67ae85#32, c := 0x3c6ef372#32, d := 0xa54ff53a#32,
    e := 0x510e527f#32, f := 0x9b05688c#32, g := 0x1f83d9ab#32, h := 0x5be0cd19#32 }

/-- The choice function. -/
def ch (x y z : Word) : Word := (x &&& y) ^^^ (~~~x &&& z)

/-- The majority function. -/
def maj (x y z : Word) : Word := (x &&& y) ^^^ (x &&& z) ^^^ (y &&& z)

/-- The first round function of word `a`. -/
def bigSigma0 (x : Word) : Word := x.rotateRight 2 ^^^ x.rotateRight 13 ^^^ x.rotateRight 22

/-- The round function of word `e`. -/
def bigSigma1 (x : Word) : Word := x.rotateRight 6 ^^^ x.rotateRight 11 ^^^ x.rotateRight 25

/-- The schedule function of the word fifteen back. -/
def smallSigma0 (x : Word) : Word := x.rotateRight 7 ^^^ x.rotateRight 18 ^^^ (x >>> 3)

/-- The schedule function of the word two back. -/
def smallSigma1 (x : Word) : Word := x.rotateRight 17 ^^^ x.rotateRight 19 ^^^ (x >>> 10)

/-- One round with a round constant and a schedule word. -/
def round (v : Chain) (k w : Word) : Chain :=
  let t1 := v.h + bigSigma1 v.e + ch v.e v.f v.g + k + w
  let t2 := bigSigma0 v.a + maj v.a v.b v.c
  { a := t1 + t2, b := v.a, c := v.b, d := v.c, e := v.d + t1, f := v.e, g := v.f, h := v.g }

/-- The rounds over the constants left, the schedule held as its next sixteen words: each round uses the first of them and
appends the word sixteen places on. -/
def rounds : List Word → List Word → Chain → Chain
  | [], _, v => v
  | k :: ks, w, v =>
    let next := smallSigma1 (w.getD 14 0#32) + w.getD 9 0#32 + smallSigma0 (w.getD 1 0#32) + w.getD 0 0#32
    rounds ks (w.drop 1 ++ [next]) (round v k (w.getD 0 0#32))

/-- The word-by-word sum that ends a block. -/
def Chain.add (x y : Chain) : Chain :=
  { a := x.a + y.a, b := x.b + y.b, c := x.c + y.c, d := x.d + y.d,
    e := x.e + y.e, f := x.f + y.f, g := x.g + y.g, h := x.h + y.h }

/-- The big-endian words of a byte sequence whose length is a multiple of 4. -/
def words : List Byte → List Word
  | b0 :: b1 :: b2 :: b3 :: rest => (b0 ++ b1 ++ b2 ++ b3) :: words rest
  | _ => []

/-- One 64-byte block. -/
def compress (v : Chain) (block : List Byte) : Chain :=
  v.add (rounds (roundConstantsLow ++ roundConstantsHigh) (words block) v)

/-- `n` blocks of 64 bytes. -/
def blocks : Nat → List Byte → Chain → Chain
  | 0, _, v => v
  | n + 1, m, v => blocks n (m.drop 64) (compress v (m.take 64))

/-- The four bytes of a word, most significant first. -/
def wordBytes (w : Word) : List Byte :=
  [w.extractLsb' 24 8, w.extractLsb' 16 8, w.extractLsb' 8 8, w.extractLsb' 0 8]

/-- The eight bytes of the message length in bits, most significant first. -/
def lengthBytes (bits : Nat) : List Byte :=
  wordBytes (BitVec.ofNat 32 (bits / 2 ^ 32)) ++ wordBytes (BitVec.ofNat 32 bits)

/-- The padded message: a one bit, zero bits, the length; a multiple of 64 bytes. -/
def pad (m : List Byte) : List Byte :=
  m ++ [0x80#8] ++ List.replicate ((119 - m.length % 64) % 64) 0#8 ++ lengthBytes (8 * m.length)

/-- The digest in its standard output order (R68). -/
def Chain.bytes (v : Chain) : List Byte :=
  wordBytes v.a ++ wordBytes v.b ++ wordBytes v.c ++ wordBytes v.d
    ++ wordBytes v.e ++ wordBytes v.f ++ wordBytes v.g ++ wordBytes v.h

/-- `SHA256` (R10, R151). -/
def digest (m : List Byte) : List Byte :=
  let p := pad m
  (blocks (p.length / 64) p start).bytes

end Sys2Proof.Machine.Sha256
end

