-- ==== Sys2Proof/Machine/Image.lean ====
section
/-! DEFINITION. The image unit (42_image.md): record replay into blocks, the window and its gap-filled image, the commands IMG.CLR, IMG.REC, IMG.WIN and IMG.HASH, and the record types of R94 as IMG.REC replays them. -/

namespace Sys2Proof.Machine

/-- `E_SEQ_STATE` while a sequence is active; else the command goes on (R141, R143, R166, R228). -/
def unlessActive (s : State) (go : State → Outcome) : Outcome :=
  if s.seq.active then raise .seqState s else go s

/-- The address of a data record: base plus offset, exact (R143). -/
def recordAddr (s : State) : Nat := s.imgBase.toNat + s.recOffset.toNat

/-- A data record, given the capacity of the block store (R143). -/
def replayData (maxBlocks : Nat) (s : State) : Outcome :=
  if recordAddr s + s.rdbuf.length > Config.u32Max then raise .addrRange s
  else if s.blk.length = maxBlocks then raise .blockFull s
  else succeed { s with blk := s.blk ++ [{ addr := BitVec.ofNat 32 (recordAddr s), data := s.rdbuf }], digValid := false }

/-- An extended-segment-address record: the value shifted left by 4 replaces the base (R142). -/
def replaySegment (s : State) : Outcome := succeed { s with imgBase := s.recValue.zeroExtend 32 <<< 4 }

/-- An extended-linear-address record: the value shifted left by 16 replaces the base (R142). -/
def replayLinear (s : State) : Outcome := succeed { s with imgBase := s.recValue.zeroExtend 32 <<< 16 }

/-- Any other record kind is ignored (R94, R143). -/
def replayIgnored (s : State) : Outcome := succeed s

/-- The record replay of a type code (R143). -/
def replay (recType : Byte) (s : State) : Outcome :=
  match recType.toNat with
  | 0x00 => replayData Config.maxBlocks s
  | 0x02 => replaySegment s
  | 0x04 => replayLinear s
  | _ => replayIgnored s

/-- `derive_window` (R145), in exact numbers; `(0, 0)` for the empty sequence, which no caller passes. -/
def deriveWindow : List Block → Nat × Nat
  | [] => (0, 0)
  | b :: bs =>
    (bs.foldl (fun m c => min m c.addr.toNat) b.addr.toNat, bs.foldl (fun m c => max m c.stop) b.stop)

/-- The slice of one block inside `[lo, hi)`, copied into the window (R147). -/
def overlay (lo hi : Nat) (buf : List Byte) (b : Block) : List Byte :=
  let s := max b.addr.toNat lo
  let e := min b.stop hi
  if s < e then memWrite buf (s - lo) (memRead b.data (s - b.addr.toNat) (e - s)) else buf

/-- `window_image` (R147): the blocks copied in stream order over the gap filling. -/
def windowImage (bs : List Block) (lo hi : Nat) : List Byte :=
  bs.foldl (overlay lo hi) (List.replicate (hi - lo) Config.gapFill)

/-- `IMG.CLR` (R141). -/
def execImgClr (s : State) : Outcome :=
  unlessActive s fun s => succeed { s with blk := [], imgBase := 0#32, digValid := false }

/-- `IMG.REC` (R143). -/
def execImgRec (s : State) : Outcome := unlessActive s fun s => replay s.recType s

/-- `IMG.WIN` (R146). -/
def execImgWin (s : State) : Outcome :=
  if s.blk.length = 0 then raise .noData s
  else
    succeed { s with winMin := BitVec.ofNat 32 (deriveWindow s.blk).1, winMax := BitVec.ofNat 32 (deriveWindow s.blk).2 }

/-- `IMG.HASH` (R149). -/
def execImgHash (s : State) : Outcome :=
  if s.winMin.toNat ≥ s.winMax.toNat then raise .invalidWindow s
  else
    succeed { s with digbuf := Sha256.digest (windowImage s.blk s.winMin.toNat s.winMax.toNat), digValid := true }

/-- Type 0x00: a data record (R94). -/
def execRecData (s : State) : Outcome := unlessActive s (replayData Config.maxBlocks)

/-- Type 0x02: an extended-segment-address record (R94). -/
def execRecExtSegment (s : State) : Outcome := unlessActive s replaySegment

/-- Type 0x04: an extended-linear-address record (R94). -/
def execRecExtLinear (s : State) : Outcome := unlessActive s replayLinear

/-- Type 0x01: end of file, ignored (R94). -/
def execRecEof (s : State) : Outcome := unlessActive s replayIgnored

/-- Type 0x03: start segment address, ignored (R94). -/
def execRecStartSegment (s : State) : Outcome := unlessActive s replayIgnored

/-- Type 0x05: start linear address, ignored (R94). -/
def execRecStartLinear (s : State) : Outcome := unlessActive s replayIgnored

end Sys2Proof.Machine
end

