-- ==== Sys2Proof/Machine/Merge.lean ====
section
/-! DEFINITION. The block merger and the flash-frame sequencer (43_merge.md): chunk, merge, flush and plan, and the commands MRG.START, MRG.NEXT, MRG.ACK and MRG.ABORT. -/

namespace Sys2Proof.Machine

/-- The first `fuel` pieces of `n` bytes; every piece takes at least one byte when `n >= 1`. -/
def chunkFuel : Nat → List Byte → Nat → List (List Byte)
  | 0, _, _ => []
  | _ + 1, [], _ => []
  | fuel + 1, d, n => d.take n :: chunkFuel fuel (d.drop n) n

/-- `chunk(d, n)` (R160), for `n >= 1`: there are never more pieces than bytes. -/
def chunk (d : List Byte) (n : Nat) : List (List Byte) := chunkFuel d.length d n

/-- A block joins the pending one when it starts at its end and the merged length stays within the limit (R161). -/
def joins (limit : Nat) (pend b : Block) : Bool :=
  decide (b.addr.toNat = pend.stop) && decide (pend.data.length + b.data.length ≤ limit)

/-- The loop of `merge` (R161): the pending block, if any, and the blocks still to come. -/
def mergeLoop (limit : Nat) : Option Block → List Block → List Block
  | pend, [] => pend.toList
  | none, b :: bs => mergeLoop limit (some b) bs
  | some p, b :: bs =>
    if joins limit p b then mergeLoop limit (some { addr := p.addr, data := p.data ++ b.data }) bs
    else p :: mergeLoop limit (some b) bs

/-- `merge(B, limit)` (R161): no block is pending before the first. -/
def merge (bs : List Block) (limit : Nat) : List Block := mergeLoop limit none bs

/-- Chunks paired with the advancing address cursor (R162). -/
def addressed : Word → List (List Byte) → List (Word × List Byte)
  | _, [] => []
  | cur, c :: cs => (cur, c) :: addressed (cur + BitVec.ofNat 32 c.length) cs

/-- `flush(m, cs)` (R162): an empty block gives no unit, since it has no chunk. -/
def flush (m : Block) (cs : Nat) : List (Word × List Byte) := addressed m.addr (chunk m.data cs)

/-- The DATA entry of a unit: a FlashData frame of the big-endian address and the chunk (R91, R164). -/
def dataEntry (u : Word × List Byte) : SeqEntry :=
  { tag := .firmware, addr := u.1, data := u.2, frame := encodeFrame Config.kindFlashData (be32 u.1 ++ u.2) }

/-- The META entry: the application-metadata frame (R92, R164). -/
def metaEntry (marker lo hi : Word) : SeqEntry :=
  { tag := .metadata, addr := marker, data := [],
    frame := encodeFrame Config.kindFlashData (be32 marker ++ le32 lo ++ le32 hi) }

/-- The transmission units of a block sequence, in stream order (R164). -/
def units (bs : List Block) (limit cs : Nat) : List (Word × List Byte) :=
  (merge bs limit).flatMap (fun m => flush m cs)

/-- `plan(B, maxp, cs, marker)` (R164). -/
def plan (bs : List Block) (maxp cs : Nat) (marker : Word) : List SeqEntry :=
  (units bs (maxp - Config.addrPrefix) cs).map dataEntry
    ++ [metaEntry marker (BitVec.ofNat 32 (deriveWindow bs).1) (BitVec.ofNat 32 (deriveWindow bs).2)]

/-- The configuration `MRG.START` accepts (R165). -/
def legalConfig (maxp cs : Nat) : Bool :=
  decide (Config.minMaxPayload ≤ maxp) && decide (1 ≤ cs) && decide (cs ≤ maxp - Config.addrPrefix)

/-- The state of a new Flash step (R166). -/
def State.startSequence (s : State) : State :=
  { s with
    appMin := BitVec.ofNat 32 (deriveWindow s.blk).1
    appMax := BitVec.ofNat 32 (deriveWindow s.blk).2
    seqFrames := plan s.blk s.maxPayload.toNat s.chunkSize.toNat s.metaMarker
    seqIdx := 0
    progTotal := BitVec.ofNat 32 (totalBytes s.blk)
    progSent := 0#32
    cursor := 0#32
    seq := .ready }

/-- `MRG.START` (R166). -/
def execMrgStart (s : State) : Outcome :=
  unlessActive s fun s =>
    if legalConfig s.maxPayload.toNat s.chunkSize.toNat then
      if s.blk.length = 0 then raise .noData s else succeed s.startSequence
    else raise .badConfig s

/-- `MRG.NEXT` (R167). -/
def execMrgNext (s : State) : Outcome :=
  if s.seq ≠ .ready then raise .seqState s
  else
    match s.seqFrames[s.seqIdx]? with
    | none => .fault .noSuchEntry
    | some e =>
      if e.frame.length < 2 then .fault .entryWithoutCrc
      else
        succeed { s.storeTx e.frame with
          cursor := if e.tag = .firmware then e.addr else s.cursor
          seq := .await }

/-- The state after a good ACK of an entry: the progress of a DATA entry, the next index, READY or DONE (R168). -/
def State.acknowledge (s : State) (e : SeqEntry) : State :=
  { s with
    progSent := if e.tag = .firmware then s.progSent + BitVec.ofNat 32 e.data.length else s.progSent
    cursor := if e.tag = .firmware then e.addr + BitVec.ofNat 32 e.data.length else s.cursor
    seqIdx := s.seqIdx + 1
    seq := if s.seqIdx + 1 = s.seqFrames.length then .done else .ready }

/-- A decoded response checked as a FlashData ACK, its packet already stored (R168). -/
def acceptAck (s : State) : Outcome :=
  match validate s.packet (some Config.kindFlashData) (some ackPayload) with
  | .ok =>
    match s.seqFrames[s.seqIdx]? with
    | none => .fault .noSuchEntry
    | some e => succeed (s.acknowledge e)
  | e => raise e { s with seq := .failed }

/-- `MRG.ACK` (R168). -/
def execMrgAck (s : State) : Outcome :=
  if s.seq ≠ .await then raise .seqState s
  else
    match decodeFrame s.rxbuf with
    | .error e => raise e { s with decValid := false, seq := .failed }
    | .ok p => acceptAck (s.storePacket p)

/-- `MRG.ABORT c` (R169). -/
def execMrgAbort (c : Byte) (s : State) : Outcome :=
  if s.seq.active then raise .hostAbort { s with abortCause := c, seq := .failed } else raise .seqState s

end Sys2Proof.Machine
end

