-- ==== Sys2Proof/Machine/Dispatch.lean ====
section
/-! DEFINITION. The dispatch: one arm per constructor of `Instr`, each one direct call of its meaning. -/

namespace Sys2Proof.Machine

def exec (i : Instr) (s : State) : Host.Outcome State Fault Refusal :=
  match i with
  | .crcInit => Sys2Proof.Machine.execCrcInit s
  | .crcByte imm => Sys2Proof.Machine.execCrcByte imm s
  | .crcBuf => Sys2Proof.Machine.execCrcBuf s
  | .frmEnc => Sys2Proof.Machine.execFrmEnc s
  | .frmDec => Sys2Proof.Machine.execFrmDec s
  | .frmVal => Sys2Proof.Machine.execFrmVal s
  | .frmVack => Sys2Proof.Machine.execFrmVack s
  | .imgClr => Sys2Proof.Machine.execImgClr s
  | .imgRec => Sys2Proof.Machine.execImgRec s
  | .imgWin => Sys2Proof.Machine.execImgWin s
  | .imgHash => Sys2Proof.Machine.execImgHash s
  | .mrgStart => Sys2Proof.Machine.execMrgStart s
  | .mrgNext => Sys2Proof.Machine.execMrgNext s
  | .mrgAck => Sys2Proof.Machine.execMrgAck s
  | .mrgAbort imm => Sys2Proof.Machine.execMrgAbort imm s
  | .kindInvalid => Sys2Proof.Machine.execKindInvalid s
  | .kindFlashStart => Sys2Proof.Machine.execKindFlashStart s
  | .kindFlashData => Sys2Proof.Machine.execKindFlashData s
  | .kindFlashMac => Sys2Proof.Machine.execKindFlashMac s
  | .kindValidateFlash => Sys2Proof.Machine.execKindValidateFlash s
  | .kindSendSignature => Sys2Proof.Machine.execKindSendSignature s
  | .recData => Sys2Proof.Machine.execRecData s
  | .recExtSegment => Sys2Proof.Machine.execRecExtSegment s
  | .recExtLinear => Sys2Proof.Machine.execRecExtLinear s
  | .recEof => Sys2Proof.Machine.execRecEof s
  | .recStartSegment => Sys2Proof.Machine.execRecStartSegment s
  | .recStartLinear => Sys2Proof.Machine.execRecStartLinear s

end Sys2Proof.Machine
end

