-- ==== Sys2Proof/Machine/HostPort.lean ====
section
/-! DEFINITION. The host port: what each host action does to the unit (R21, R55, R61, R62, R72, R220). -/

namespace Sys2Proof.Machine

/-- The issue of a command word already stored in `CMD`: a legal word runs its command, an illegal one completes with
`E_ILLEGAL_CMD` and changes nothing else (R21, R83). -/
def issue (w : Word) (s : State) : Outcome :=
  match decode w with
  | .instr i => exec i s
  | .illegal _ => raise .illegalCmd s

/-- What the host's read returned, kept on the host's side (log entry 1). -/
def State.withReply (s : State) (r : HostReply) : State := { s with port := { s.port with reply := r } }

/-- The host actions still to come. -/
def State.withPending (s : State) (p : List HostAction) : State := { s with port := { s.port with pending := p } }

/-- A host register write (R21, R55, R61). -/
def hostWrite (offset : Byte) (v : Word) (s : State) : Outcome :=
  if aligned offset then
    if offset = Reg.offset .cmd then issue v (writeReg .cmd v s) else .next (writeOffset offset v s)
  else .fault .misalignedRegister

/-- A host register read: the unit does not change (R55, 4; R61). -/
def hostRead (offset : Byte) (s : State) : Outcome :=
  if aligned offset then .next (s.withReply (.word (readOffset offset s))) else .fault .misalignedRegister

/-- `HostLoad(B, bytes)` (R62). -/
def hostLoad (b : Buffer) (bytes : List Byte) (s : State) : Outcome :=
  if b.loadable then
    if bytes.length ≤ b.capacity then .next (s.setBuf b bytes) else .fault .loadAboveCapacity
  else .fault .bufferNotLoadable

/-- `HostRead(B)`: the whole content, and nothing changes in the unit (R62). -/
def hostReadBuf (b : Buffer) (s : State) : Outcome := .next (s.withReply (.bytes (s.buf b)))

/-- The reset event: every register, buffer and hidden element returns to its reset value (R220). The host's program and
what it has read are not the unit's and stay (R57). -/
def hostReset (s : State) : Outcome := .next { State.reset with port := s.port }

/-- One host action. -/
def perform (a : HostAction) (s : State) : Outcome :=
  match a with
  | .writeReg offset value => hostWrite offset value s
  | .readReg offset => hostRead offset s
  | .load buffer bytes => hostLoad buffer bytes s
  | .readBuf buffer => hostReadBuf buffer s
  | .reset => hostReset s

/-- A 32-bit word placed as the host's next action, a write of it to `CMD`. -/
def placeCommand (w : Word) (s : State) : State :=
  s.withPending (.writeReg (Reg.offset .cmd) w :: s.port.pending)

/-- A record type code placed where `IMG.REC` takes it, with `IMG.REC` as the host's next action (R95). -/
def placeRecord (code : Byte) (s : State) : State :=
  placeCommand 0x00000021#32 { s with recType := code }

end Sys2Proof.Machine
end

