-- ==== Sys2Proof/Machine/Step.lean ====
section
/-! DEFINITION. One step of the machine: the host's next action, which the unit serves whole before the next one (R8, R71, R75). -/

namespace Sys2Proof.Machine

/-- The unit does nothing between host actions (R8): with none pending the state stays as it is. -/
def step (s : State) : Host.Outcome State Fault Refusal :=
  match s.port.pending with
  | [] => .next s
  | a :: rest => perform a (s.withPending rest)

/-- `s` with an instruction of spec/opcode_table.json placed so that the next step runs it: a 32-bit row is a command
word the host writes to `CMD` next, an 8-bit row is a record type code in `REC_CTRL.TYPE` with an `IMG.REC` issued next
(log entries 3 and 7). -/
def State.withFetchWord (s : State) (nbits w : Nat) : State :=
  if nbits = 8 then placeRecord (BitVec.ofNat 8 w) s else placeCommand (BitVec.ofNat 32 w) s

end Sys2Proof.Machine
end

