-- ==== Sys2Proof/Machine/HostProgram.lean ====
section
/-! DEFINITION. Host programs (R96 to R98): the written form of a command line, the lines of a program, the pseudo-instructions as the host actions they expand to, and the assertions `expect`. -/

namespace Sys2Proof.Machine

/-- The name of a register (R54). -/
def Reg.name : Reg → String
  | .cmd => "CMD"
  | .status => "STATUS"
  | .crcAcc => "CRC_ACC"
  | .crcPoly => "CRC_POLY"
  | .crcInit => "CRC_INIT"
  | .txKind => "TX_KIND"
  | .txCrc => "TX_CRC"
  | .rxHdr => "RX_HDR"
  | .rxCrc => "RX_CRC"
  | .expCtrl => "EXP_CTRL"
  | .recCtrl => "REC_CTRL"
  | .recValue => "REC_VALUE"
  | .imgBase => "IMG_BASE"
  | .imgCount => "IMG_COUNT"
  | .winMin => "WIN_MIN"
  | .winMax => "WIN_MAX"
  | .maxPayload => "MAX_PAYLOAD"
  | .chunkSize => "CHUNK_SIZE"
  | .metaMarker => "META_MARKER"
  | .appMin => "APP_MIN"
  | .appMax => "APP_MAX"
  | .progSent => "PROG_SENT"
  | .progTotal => "PROG_TOTAL"
  | .cursor => "CURSOR"
  | .seqIdx => "SEQ_IDX"
  | .seqLen => "SEQ_LEN"
  | .abortCause => "ABORT_CAUSE"
  | .txLen => "TX_LEN"
  | .rxLen => "RX_LEN"
  | .pLen => "P_LEN"
  | .rpLen => "RP_LEN"
  | .expLen => "EXP_LEN"
  | .rdLen => "RD_LEN"

/-- The name of a buffer (R51). -/
def Buffer.name : Buffer → String
  | .pbuf => "PBUF"
  | .txbuf => "TXBUF"
  | .rxbuf => "RXBUF"
  | .rpbuf => "RPBUF"
  | .expbuf => "EXPBUF"
  | .rdbuf => "RDBUF"
  | .digbuf => "DIGBUF"

/-- The value of a digit in a base up to 16. -/
def digitValue (base : Nat) (c : Char) : Option Nat :=
  let v :=
    if '0' ≤ c ∧ c ≤ '9' then c.toNat - '0'.toNat
    else if 'a' ≤ c ∧ c ≤ 'f' then c.toNat - 'a'.toNat + 10
    else if 'A' ≤ c ∧ c ≤ 'F' then c.toNat - 'A'.toNat + 10
    else base
  if v < base then some v else none

/-- The number a nonempty digit sequence writes, after `acc`. -/
def digitsFrom (base : Nat) : Nat → List Char → Option Nat
  | acc, [] => some acc
  | acc, c :: cs => (digitValue base c).bind fun v => digitsFrom base (acc * base + v) cs

/-- An 8-bit number in decimal or in `0x` hexadecimal (R96). -/
def numberOperand (cs : List Char) : Option Byte :=
  let n :=
    match cs with
    | [] => none
    | '0' :: 'x' :: [] => none
    | '0' :: 'x' :: ds => digitsFrom 16 0 ds
    | ds => digitsFrom 10 0 ds
  n.bind fun v => if v < 256 then some (BitVec.ofNat 8 v) else none

/-- The rest of a line may hold spaces and a comment only (R96). -/
def lineEnds : List Char → Bool
  | [] => true
  | ';' :: _ => true
  | c :: cs => c.isWhitespace && lineEnds cs

/-- The operand text of `CRC.BYTE` or `MRG.ABORT`: a number or a character literal (R96). -/
def operandOf (cs : List Char) : Option Byte :=
  match cs.dropWhile Char.isWhitespace with
  | '\'' :: c :: '\'' :: rest =>
    if lineEnds rest && decide (c.toNat < 128) then some (BitVec.ofNat 8 c.toNat) else none
  | ds =>
    let word := ds.takeWhile (fun c => !(c.isWhitespace || c == ';'))
    if lineEnds (ds.drop word.length) then numberOperand word else none

/-- The commands that take no operand (R96). -/
def plainCommands : List Instr :=
  [.crcInit, .crcBuf, .frmEnc, .frmDec, .frmVal, .frmVack, .imgClr, .imgRec, .imgWin, .imgHash, .mrgStart, .mrgNext, .mrgAck]

/-- The command a line of text writes (R96). -/
def commandOfLine (line : List Char) : Option Instr :=
  let cs := line.dropWhile Char.isWhitespace
  let word := cs.takeWhile (fun c => !(c.isWhitespace || c == ';'))
  let rest := cs.drop word.length
  if word = "CRC.BYTE".toList then (operandOf rest).map .crcByte
  else if word = "MRG.ABORT".toList then (operandOf rest).map .mrgAbort
  else if lineEnds rest then plainCommands.find? (fun i => (mnemonic i).toList == word)
  else none

/-- The word of a command; the kind and record codes have none (R82). -/
def commandWordOf (i : Instr) : Option Word :=
  match encode i with
  | .command w => some w
  | .kindCode _ => none
  | .recordCode _ => none

/-- The host action that issues a command: a write of its word to `CMD` (R97). -/
def issueAction (i : Instr) : List HostAction :=
  ((commandWordOf i).map (fun w => HostAction.writeReg (Reg.offset .cmd) w)).toList

/-- A line of a host program: the host actions of R97, the pseudo-instructions of R98, and the assertions. -/
inductive ProgramLine where
  | wr (r : Reg) (v : Word)
  | rd (r : Reg)
  | ld (b : Buffer) (bytes : List Byte)
  | rb (b : Buffer)
  | command (i : Instr)
  | reset
  | crcStr (s : List Byte)
  | val (kind : Byte)
  | valp (kind : Byte)
  | vack (kind : Byte)
  | record (type : Byte) (offset : Half)
  | extended (type : Byte) (value : Word)
  | send
  | recv (bytes : List Byte)
  | expectReg (r : Reg) (v : Word)
  | expectBuf (b : Buffer) (bytes : List Byte)
  deriving DecidableEq, Repr

/-- A write of a register by name. -/
def writeAction (r : Reg) (v : Word) : HostAction := .writeReg r.offset v

/-- The host actions of a line (R97, R98). `SEND` and `expect` are none the unit sees. -/
def ProgramLine.expand : ProgramLine → List HostAction
  | .wr r v => [writeAction r v]
  | .rd r => [.readReg r.offset]
  | .ld b bytes => [.load b bytes]
  | .rb b => [.readBuf b]
  | .command i => issueAction i
  | .reset => [.reset]
  | .crcStr s => issueAction .crcInit ++ s.flatMap (fun c => issueAction (.crcByte c))
  | .val kind => writeAction .expCtrl (0#16 ++ kind ++ 1#8) :: issueAction .frmVal
  | .valp kind => writeAction .expCtrl (0#16 ++ kind ++ 3#8) :: issueAction .frmVal
  | .vack kind => writeAction .expCtrl (0#16 ++ kind ++ 0#8) :: issueAction .frmVack
  | .record type offset => writeAction .recCtrl (offset ++ 0#8 ++ type) :: issueAction .imgRec
  | .extended type value =>
    writeAction .recCtrl (type.zeroExtend 32) :: writeAction .recValue value :: issueAction .imgRec
  | .send => []
  | .recv bytes => [.load .rxbuf bytes]
  | .expectReg _ _ => []
  | .expectBuf _ _ => []

/-- What a line asserts of the state at its point: nothing, but for `expect` (R97). -/
def ProgramLine.holds (l : ProgramLine) (s : State) : Bool :=
  match l with
  | .expectReg r v => readReg r s == v
  | .expectBuf b bytes => s.buf b == bytes
  | .wr _ _ => true
  | .rd _ => true
  | .ld _ _ => true
  | .rb _ => true
  | .command _ => true
  | .reset => true
  | .crcStr _ => true
  | .val _ => true
  | .valp _ => true
  | .vack _ => true
  | .record _ _ => true
  | .extended _ _ => true
  | .send => true
  | .recv _ => true

/-- The host actions of a program, in order (R75, R97). -/
def programActions (p : List ProgramLine) : List HostAction := p.flatMap ProgramLine.expand

/-- The state with a host program given to the machine from outside (log entry 7). -/
def State.withProgram (s : State) (p : List ProgramLine) : State := s.withPending (programActions p)

end Sys2Proof.Machine
end

