-- ==== Sys2Proof/WellFormed.lean ====
section
/-! DEFINITION. The host's duties that the unit cannot check (R61, R62, R205), as a check on a host action. An `Instr` needs no check: its operands have their widths in their types. -/

namespace Sys2Proof.Machine

/-- A host action the spec gives a step: an aligned register access (R61), or a load of a loadable buffer within its
capacity (R62). -/
def HostAction.wellFormed : HostAction → Bool
  | .writeReg offset _ => aligned offset
  | .readReg offset => aligned offset
  | .load buffer bytes => buffer.loadable && decide (bytes.length ≤ buffer.capacity)
  | .readBuf _ => true
  | .reset => true

end Sys2Proof.Machine
end

