-- ==== Sys2Proof/Safety.lean ====
section
/-! DEFINITION. What claims call a good state and a good run: the invariant that the spec's rules give every reachable state, the host's duty, and how a flash run ends. -/

namespace Sys2Proof.Machine

/-- The firmware bytes a list of entries carries: those of its DATA entries (R170). -/
def sentBytes (es : List SeqEntry) : Nat :=
  (es.map (fun e => if e.tag = .firmware then e.data.length else 0)).sum

/-- Every block of the store lies within the bounds of R40. -/
def Block.wf (b : Block) : Bool := decide (b.data.length ≤ Config.rdCap) && decide (b.stop ≤ Config.u32Max)

/-- A planned sequence: DATA entries of 1 to 65531 bytes each, then one META entry with the application window (R91, R164). -/
def SequenceShape (s : State) : Prop :=
  ∃ (us : List (Word × List Byte)) (marker : Word),
    (∀ u ∈ us, 1 ≤ u.2.length ∧ u.2.length + Config.addrPrefix ≤ Config.pcap) ∧
      s.seqFrames = us.map dataEntry ++ [metaEntry marker s.appMin s.appMax]

/-- The invariant of the unit: what the spec says of every state the unit can be in. -/
structure State.Inv (s : State) : Prop where
  /-- Every buffer is within its capacity and DIGBUF has 32 bytes (R51). -/
  memory : Memory.wf s = true
  /-- The block store is within `MAX_BLOCKS` (R40). -/
  store : s.blk.length ≤ Config.maxBlocks
  /-- Every block is within `RD_CAP` and ends at or below 0xFFFFFFFF (R40). -/
  blocks : ∀ b ∈ s.blk, b.wf = true
  /-- The running base is at most 0xFFFF0000 (R142). -/
  base : s.imgBase.toNat ≤ 0xFFFF0000
  /-- While DEC_VALID is 1, `RX_HDR.LEN` is the length of RPBUF (R27, R122). -/
  decoded : s.decValid = true → s.rxHdrLen.toNat = s.rpbuf.length
  /-- TXBUF is empty or holds a whole frame of a kind 0 to 5, and `TX_CRC` is its CRC (R33, R85). -/
  frame : s.txbuf = [] ∨ ∃ kind payload, kind.toNat ≤ Config.maxKind ∧ payload.length ≤ Config.pcap ∧
    s.txbuf = encodeFrame kind payload ∧ s.txCrc = rdle16 s.txbuf (s.txbuf.length - 2)
  /-- `SEQ_IDX` never exceeds `SEQ_LEN` (R49). -/
  index : s.seqIdx ≤ s.seqFrames.length
  /-- `SEQ_IDX = SEQ_LEN` exactly when the sequence is done or none was started (R49). -/
  ended : s.seqIdx = s.seqFrames.length ↔ s.seq = .done ∨ s.seq = .idle
  /-- No sequence is planned exactly in IDLE (R26). -/
  started : s.seqFrames = [] ↔ s.seq = .idle
  /-- A planned sequence has the shape of R164. -/
  shape : s.seq ≠ .idle → SequenceShape s
  /-- `PROG_SENT` counts the bytes of the acknowledged DATA entries (R170). -/
  sent : s.progSent.toNat = sentBytes (s.seqFrames.take s.seqIdx)
  /-- `PROG_TOTAL` counts the bytes of all DATA entries (R170). -/
  total : s.progTotal.toNat = sentBytes s.seqFrames
  /-- While a sequence is active, the store it was planned from is still there (R228). -/
  locked : s.seq.active = true → s.progTotal.toNat = totalBytes s.blk ∧
    s.appMin.toNat = (deriveWindow s.blk).1 ∧ s.appMax.toNat = (deriveWindow s.blk).2
  /-- While DIG_VALID is 1, DIGBUF is the digest of a window image of the block store as it is (R28, R149). -/
  digest : s.digValid = true → ∃ lo hi : Word, lo.toNat < hi.toNat ∧
    s.digbuf = Sha256.digest (windowImage s.blk lo.toNat hi.toNat)

/-- The host keeps its duties in its next action (R61, R62, R205). -/
def State.HostKeepsDuty (s : State) : Prop := ∀ a ∈ s.port.pending.head?, a.wellFormed = true

/-- A flash run is complete (R206). -/
def State.flashComplete (s : State) : Bool := s.seq == .done

/-- A flash run has failed (R206). -/
def State.flashFailed (s : State) : Bool := s.seq == .failed

/-- Every byte of every buffer outside `written` reads after as before. -/
def sameBytesExcept (written : List Buffer) (s t : State) : Prop :=
  ∀ b, b ∉ written → ∀ j : Nat, (t.buf b)[j]? = (s.buf b)[j]?

/-- Every image address reads after as before. -/
def sameImage (s t : State) : Prop := ∀ x, imageByte t.blk x = imageByte s.blk x

/-- The OPC values of R82. -/
def listedOpcs : List Byte :=
  [0x01#8, 0x02#8, 0x03#8, 0x10#8, 0x11#8, 0x12#8, 0x13#8, 0x20#8, 0x21#8, 0x22#8, 0x23#8, 0x30#8, 0x31#8, 0x32#8, 0x33#8]

/-- A legal command word, by the three conditions of R83. -/
def legalWord (w : Word) : Prop :=
  w.extractLsb' 0 8 ∈ listedOpcs ∧ w.extractLsb' 16 16 = 0#16 ∧
    (w.extractLsb' 8 8 = 0#8 ∨ w.extractLsb' 0 8 = 0x02#8 ∨ w.extractLsb' 0 8 = 0x33#8)

/-- The registers the host may write (R54, access RW). -/
def Reg.writable (r : Reg) : Bool :=
  [Reg.cmd, .crcAcc, .crcPoly, .crcInit, .txKind, .expCtrl, .recCtrl, .recValue, .winMin, .winMax, .maxPayload, .chunkSize,
    .metaMarker].contains r

/-- The defined bits of a register the host may write (R54). -/
def Reg.mask (r : Reg) : Word :=
  if [Reg.cmd, .winMin, .winMax, .metaMarker].contains r then 0xFFFFFFFF#32
  else if [Reg.crcAcc, .crcPoly, .crcInit, .recValue, .maxPayload, .chunkSize].contains r then 0x0000FFFF#32
  else if r = .txKind then 0x000000FF#32
  else if r = .expCtrl then 0x0000FF03#32
  else if r = .recCtrl then 0xFFFF00FF#32
  else 0#32

/-- Commands issued one after another, stopping at the first that gives no next state. -/
def execAll : List Instr → State → Outcome
  | [], s => .next s
  | i :: is, s =>
    match exec i s with
    | .next t => execAll is t
    | .fault f => .fault f
    | .refused r => .refused r

/-- A firmware record as the host delivers it (R95). -/
structure Record where
  type : Byte
  offset : Half
  value : Half
  data : List Byte
  deriving DecidableEq, Repr

/-- The block sequence the source's parse emits for a record stream, from a running base (R140, R142). -/
def parseRecords : Nat → List Record → List Block
  | _, [] => []
  | base, r :: rs =>
    if r.type = 0x04#8 then parseRecords (r.value.toNat * 65536) rs
    else if r.type = 0x02#8 then parseRecords (r.value.toNat * 16) rs
    else if r.type = 0x00#8 then
      { addr := BitVec.ofNat 32 (base + r.offset.toNat), data := r.data } :: parseRecords base rs
    else parseRecords base rs

/-- The state with one record delivered: `REC_CTRL`, `REC_VALUE` and RDBUF (R95). -/
def State.deliver (s : State) (r : Record) : State :=
  { s with recType := r.type, recOffset := r.offset, recValue := r.value, rdbuf := r.data }

/-- A record stream replayed, each record delivered and then run by `IMG.REC`; none if one of them fails (R140). -/
def replayAll : List Record → State → Option State
  | [], s => some s
  | r :: rs, s =>
    match exec .imgRec (s.deliver r) with
    | .next t => if t.err = .ok then replayAll rs t else none
    | .fault _ => none
    | .refused _ => none

/-- The loop of R161 written as it stands there: the blocks flushed so far and the pending block. -/
def mergeStep (limit : Nat) (st : List Block × Option Block) (b : Block) : List Block × Option Block :=
  match st.2 with
  | some p =>
    if b.addr.toNat = p.addr.toNat + p.data.length ∧ p.data.length + b.data.length ≤ limit then
      (st.1, some { addr := p.addr, data := p.data ++ b.data })
    else (st.1 ++ [p], some b)
  | none => (st.1, some b)

/-- The bytes of a piece of data with the image addresses they stand at (R67). -/
def addressedBytes (a : Nat) (d : List Byte) : List (Nat × Byte) := d.zipIdx.map (fun p => (a + p.2, p.1))

/-- One exchange of a Flash step: `MRG.NEXT`, the response loaded into RXBUF, `MRG.ACK`; the frame sent and the state
after it (R167, R168). -/
def exchange (response : List Byte) (s : State) : Option (List Byte × State) :=
  match exec .mrgNext s with
  | .next t =>
    match exec .mrgAck { t with rxbuf := response } with
    | .next u => some (t.txbuf, u)
    | .fault _ => none
    | .refused _ => none
  | .fault _ => none
  | .refused _ => none

/-- A number of exchanges, each answered by the same response: the frames sent, in order, and the state after them. -/
def exchanges (response : List Byte) : Nat → State → Option (List (List Byte) × State)
  | 0, s => some ([], s)
  | n + 1, s =>
    (exchange response s).bind fun r => (exchanges response n r.2).map fun q => (r.1 :: q.1, q.2)

/-- The FlashData ACK frame of R90. -/
def flashDataAck : List Byte := [0xA5#8, 0x02#8, 0x01#8, 0x00#8, 0x55#8, 0xF5#8, 0x28#8]

/-- The codes a command can complete with (R193), success among them. -/
def allowedCodes : Instr → List ErrCode
  | .crcInit => [.ok]
  | .crcByte _ => [.ok]
  | .crcBuf => [.ok]
  | .frmEnc => [.ok, .badKind]
  | .frmDec => [.ok, .frameShort, .lenMismatch]
  | .frmVal => [.ok, .noFrame, .badMarker, .unexpKind, .unexpPayload, .crcMismatch]
  | .frmVack => [.ok, .noFrame, .badMarker, .unexpKind, .unexpPayload, .crcMismatch]
  | .imgClr => [.ok, .seqState]
  | .imgRec => [.ok, .seqState, .addrRange, .blockFull]
  | .imgWin => [.ok, .noData]
  | .imgHash => [.ok, .invalidWindow]
  | .mrgStart => [.ok, .seqState, .badConfig, .noData]
  | .mrgNext => [.ok, .seqState]
  | .mrgAck => [.ok, .seqState, .frameShort, .lenMismatch, .badMarker, .unexpKind, .unexpPayload, .crcMismatch]
  | .mrgAbort _ => [.seqState, .hostAbort]
  | .kindInvalid => [.ok]
  | .kindFlashStart => [.ok]
  | .kindFlashData => [.ok]
  | .kindFlashMac => [.ok]
  | .kindValidateFlash => [.ok]
  | .kindSendSignature => [.ok]
  | .recData => [.ok, .seqState, .addrRange, .blockFull]
  | .recExtSegment => [.ok, .seqState]
  | .recExtLinear => [.ok, .seqState]
  | .recEof => [.ok, .seqState]
  | .recStartSegment => [.ok, .seqState]
  | .recStartLinear => [.ok, .seqState]

/-- The commands of the CRC sub-unit. -/
def usesCrcRegisters : Instr → Bool
  | .crcInit => true
  | .crcByte _ => true
  | .crcBuf => true
  | .frmEnc => false
  | .frmDec => false
  | .frmVal => false
  | .frmVack => false
  | .imgClr => false
  | .imgRec => false
  | .imgWin => false
  | .imgHash => false
  | .mrgStart => false
  | .mrgNext => false
  | .mrgAck => false
  | .mrgAbort _ => false
  | .kindInvalid => false
  | .kindFlashStart => false
  | .kindFlashData => false
  | .kindFlashMac => false
  | .kindValidateFlash => false
  | .kindSendSignature => false
  | .recData => false
  | .recExtSegment => false
  | .recExtLinear => false
  | .recEof => false
  | .recStartSegment => false
  | .recStartLinear => false

/-- An outcome with its next state changed by `f`. -/
def mapNext (f : State → State) : Outcome → Outcome
  | .next s => .next (f s)
  | .fault r => .fault r
  | .refused r => .refused r

end Sys2Proof.Machine
end

