-- ==== Sys2Proof/Certificates/Slice0/Obligations.lean ====
section
/-! DEFINITION. The statements for the provers, from the numbered rules of spec/. -/

open Sys2Proof Sys2Proof.Machine

/-! ### Decoding and the step -/

/-- A sanity statement: words written out from the encodings of R82 decode to the commands they stand for, and kind and
record codes to their rows (R88, R94). -/
def Obligations.DecodesWordsOfTheOpcodeMap : Prop :=
  decode 0b00000000000000000000000000000001#32 = .instr .crcInit ∧
    decode 0b00000000000000000011000100000010#32 = .instr (.crcByte 0x31#8) ∧
    decode 0b00000000000000000000000000010001#32 = .instr .frmDec ∧
    decode 0b00000000000000000000000000100001#32 = .instr .imgRec ∧
    decode 0b00000000000000000000001100110011#32 = .instr (.mrgAbort 0x03#8) ∧
    decodeKind 0b00000100#8 = .instr .kindValidateFlash ∧ decodeRecord 0b00000010#8 = .instr .recExtSegment

/-- Decode and encode agree both ways: a word decodes to an instruction exactly when it is the word that instruction
encodes to, and every instruction, kind and record codes included, decodes back from its encoding. -/
def Obligations.DecodeAndEncodeAgree : Prop :=
  (∀ (w : Word) (i : Instr), decode w = .instr i ↔ encode i = .command w) ∧
    ∀ i : Instr, decodeEncoded (encode i) = .instr i

/-- R83: a word is a command exactly when it meets the three conditions; writing any other word to `CMD` stores it there
and completes with `E_ILLEGAL_CMD`, and nothing else changes (the host's side only moves on to its next action). -/
def Obligations.IllegalWordsOnlyRaiseIllegalCmd : Prop :=
  (∀ w : Word, (∃ i, decode w = .instr i) ↔ legalWord w) ∧
    ∀ (s : State) (w : Word) (rest : List HostAction),
      s.port.pending = .writeReg (Reg.offset .cmd) w :: rest → ¬ legalWord w →
        step s = .next { s with cmd := w, err := .illegalCmd, port := { s.port with pending := rest } }

/-- A step runs the decoded instruction: with a write of a legal word to `CMD` next, the step is `exec` of the
instruction the word decodes to, `CMD` holding the word and that action gone from the host's list. -/
def Obligations.StepRunsTheDecodedCommand : Prop :=
  ∀ (s : State) (w : Word) (i : Instr) (rest : List HostAction),
    s.port.pending = .writeReg (Reg.offset .cmd) w :: rest → decode w = .instr i →
      step s = exec i { s with cmd := w, port := { s.port with pending := rest } }

/-- The placing of an instruction of the opcode table (the model's own, log entries 2, 3 and 7): the next step runs
exactly the instruction `decodeTableWord` reads, for a command word and for a record type code. -/
def Obligations.PlacedTableWordRunsNext : Prop :=
  (∀ (s : State) (w : Nat) (i : Instr), decodeTableWord 32 w = some i →
      step (s.withFetchWord 32 w) = exec i { s with cmd := BitVec.ofNat 32 w }) ∧
    ∀ (s : State) (w : Nat) (i : Instr), decodeTableWord 8 w = some i →
      step (s.withFetchWord 8 w) = exec i { s with recType := BitVec.ofNat 8 w, cmd := 0x00000021#32 }

/-! ### The host port -/

/-- R55 with R72: what a host write stores in each register, that every other register keeps its value, that a write
changes nothing but the fields of the written register (no buffer, no block, no planned entry, no status), that a write
to a read-only register or an unmapped offset changes nothing and issues no command, that an unmapped offset reads 0, and
that a read changes nothing in the unit. -/
def Obligations.HostRegisterAccess : Prop :=
  (∀ (r : Reg) (v : Word) (s : State), r.writable = true → readReg r (writeReg r v s) = v &&& r.mask) ∧
    (∀ (r q : Reg) (v : Word) (s : State), q ≠ r → readReg q (writeReg r v s) = readReg q s) ∧
    (∀ (r : Reg) (v : Word) (s : State),
      let t := writeReg r v s
      t = { s with
          cmd := t.cmd, crcAcc := t.crcAcc, crcPoly := t.crcPoly, crcInit := t.crcInit, txKind := t.txKind,
          kindEn := t.kindEn, payloadEn := t.payloadEn, expKind := t.expKind, recType := t.recType,
          recOffset := t.recOffset, recValue := t.recValue, winMin := t.winMin, winMax := t.winMax,
          maxPayload := t.maxPayload, chunkSize := t.chunkSize, metaMarker := t.metaMarker } ∧
      sameBytesExcept [] s t ∧ sameImage s t) ∧
    (∀ (s : State) (off : Byte) (v : Word) (rest : List HostAction),
      s.port.pending = .writeReg off v :: rest → off.toNat % 4 = 0 →
        (∀ r, Reg.ofOffset off = some r → r ≠ .cmd → r.writable = true →
          step s = .next (writeReg r v { s with port := { s.port with pending := rest } })) ∧
        ((∀ r, Reg.ofOffset off = some r → r.writable = false) →
          step s = .next { s with port := { s.port with pending := rest } })) ∧
    ∀ (s : State) (off : Byte) (rest : List HostAction), s.port.pending = .readReg off :: rest → off.toNat % 4 = 0 →
      ∃ v, step s = .next { s with port := { pending := rest, reply := .word v } } ∧
        (∀ r, Reg.ofOffset off = some r → v = readReg r s) ∧ (Reg.ofOffset off = none → v = 0#32)

/-- The register map of R54: each register is found at its own offset and at no other, all offsets are multiples of 4,
and the offset of each register is the number the table gives it. -/
def Obligations.RegisterMapIsOneToOne : Prop :=
  (∀ (off : Byte) (r : Reg), (Reg.ofOffset off = some r ↔ r.offset = off) ∧ r.offset.toNat % 4 = 0) ∧
    ∀ p ∈ [(Reg.cmd, 0x00), (.status, 0x04), (.crcAcc, 0x08), (.crcPoly, 0x0C), (.crcInit, 0x10), (.txKind, 0x14),
      (.txCrc, 0x18), (.rxHdr, 0x1C), (.rxCrc, 0x20), (.expCtrl, 0x24), (.recCtrl, 0x28), (.recValue, 0x2C),
      (.imgBase, 0x30), (.imgCount, 0x34), (.winMin, 0x38), (.winMax, 0x3C), (.maxPayload, 0x40), (.chunkSize, 0x44),
      (.metaMarker, 0x48), (.appMin, 0x4C), (.appMax, 0x50), (.progSent, 0x54), (.progTotal, 0x58), (.cursor, 0x5C),
      (.seqIdx, 0x60), (.seqLen, 0x64), (.abortCause, 0x68), (.txLen, 0x6C), (.rxLen, 0x70), (.pLen, 0x74),
      (.rpLen, 0x78), (.expLen, 0x7C), (.rdLen, 0x80)], p.1.offset.toNat = p.2

/-- R61: a register access at an offset that is no multiple of 4 has no step: the machine stops there. -/
def Obligations.MisalignedRegisterAccessHasNoStep : Prop :=
  ∀ (s : State) (off : Byte) (v : Word) (rest : List HostAction), off.toNat % 4 ≠ 0 →
    (s.port.pending = .writeReg off v :: rest ∨ s.port.pending = .readReg off :: rest) →
      step s = .fault .misalignedRegister

/-- R62: a load of PBUF, RXBUF, EXPBUF or RDBUF within its capacity replaces the whole buffer and nothing else; any other
load has no step; a buffer read returns the whole content and changes nothing in the unit. -/
def Obligations.HostBufferAccess : Prop :=
  (∀ (s : State) (b : Buffer) (bytes : List Byte) (rest : List HostAction),
      s.port.pending = .load b bytes :: rest →
        (b ∈ [Buffer.pbuf, .rxbuf, .expbuf, .rdbuf] ∧ bytes.length ≤ b.capacity →
          ∃ t, step s = .next t ∧ t.buf b = bytes ∧ (∀ c, c ≠ b → t.buf c = s.buf c) ∧
            t = { s with
                port := { s.port with pending := rest }, pbuf := t.pbuf, rxbuf := t.rxbuf,
                expbuf := t.expbuf, rdbuf := t.rdbuf }) ∧
        (¬ (b ∈ [Buffer.pbuf, .rxbuf, .expbuf, .rdbuf] ∧ bytes.length ≤ b.capacity) → ∃ r, step s = .fault r)) ∧
    ∀ (s : State) (b : Buffer) (rest : List HostAction), s.port.pending = .readBuf b :: rest →
      step s = .next { s with port := { pending := rest, reply := .bytes (s.buf b) } }

/-- R56 and R220: what every register reads, every buffer and the two hidden lists hold, after the reset event, from
any state. -/
def Obligations.ResetGivesEveryResetValue : Prop :=
  ∀ (s : State) (rest : List HostAction), s.port.pending = .reset :: rest →
    ∃ t, step s = .next t ∧
      readReg .crcAcc t = 0x00001D0F#32 ∧ readReg .crcPoly t = 0x00001021#32 ∧ readReg .crcInit t = 0x00001D0F#32 ∧
      readReg .maxPayload t = 0x00000100#32 ∧ readReg .chunkSize t = 0x000000FC#32 ∧
      (∀ r, r ∉ [Reg.crcAcc, .crcPoly, .crcInit, .maxPayload, .chunkSize] → readReg r t = 0#32) ∧
      t.err = .ok ∧ t.seq = .idle ∧ (∀ b, b ≠ .digbuf → t.buf b = []) ∧ t.buf .digbuf = List.replicate 32 0x00#8 ∧
      t.blk = [] ∧ t.seqFrames = []

/-! ### The CRC engine -/

/-- R113: `CRC.INIT` loads `CRC_INIT`, whatever it holds; its word is 0x00000001; after reset it leaves 0x1D0F. -/
def Obligations.CrcInitLoadsTheInitialValue : Prop :=
  decode 0x00000001#32 = .instr .crcInit ∧
    (∀ s : State, exec .crcInit s = .next { s with crcAcc := s.crcInit, err := .ok }) ∧
    ∃ t, exec .crcInit State.reset = .next t ∧ readReg .crcAcc t = 0x00001D0F#32

/-- R114: `CRC.BYTE b` steps the accumulator; its word is 0x0000bb02; with `CRC_POLY = 0` the step is a pure shift,
whatever the byte; and `CRC.INIT` followed by the bytes of a sequence leaves `crc16` of the sequence. -/
def Obligations.CrcByteStepsTheAccumulator : Prop :=
  (∀ (b : Byte) (s : State), decode (BitVec.ofNat 32 (b.toNat * 256 + 2)) = .instr (.crcByte b) ∧
      exec (.crcByte b) s = .next { s with crcAcc := crcStep s.crcAcc b s.crcPoly, err := .ok } ∧
      (s.crcPoly = 0#16 → (crcStep s.crcAcc b s.crcPoly).toNat = s.crcAcc.toNat % 256 * 256)) ∧
    (∀ (data : List Byte) (s : State), execAll (.crcInit :: data.map Instr.crcByte) s =
      .next { s with crcAcc := crc16 data s.crcPoly s.crcInit, err := .ok }) ∧
    crcStep 0x1D0F#16 0x31#8 0x1021#16 = 0xEAEE#16

/-- R115: `CRC.BUF` computes the CRC of PBUF from `CRC_INIT`, whatever `CRC_ACC` held; an empty PBUF gives `CRC_INIT`;
"123456789" gives 0xE5CC with the reset parameters. -/
def Obligations.CrcBufComputesTheCrcOfPbuf : Prop :=
  decode 0x00000003#32 = .instr .crcBuf ∧
    (∀ s : State, exec .crcBuf s = .next { s with crcAcc := crc16 s.pbuf s.crcPoly s.crcInit, err := .ok } ∧
      (s.pbuf = [] → exec .crcBuf s = .next { s with crcAcc := s.crcInit, err := .ok })) ∧
    crc16 [0x31#8, 0x32#8, 0x33#8, 0x34#8, 0x35#8, 0x36#8, 0x37#8, 0x38#8, 0x39#8] 0x1021#16 0x1D0F#16 = 0xE5CC#16

/-- R110 and R116: for a fixed polynomial the byte step is linear in the accumulator and the byte, so two CRCs of one
sequence differ by the CRC of as many zero bytes; and the function depends on byte order. -/
def Obligations.CrcIsLinearAndOrderSensitive : Prop :=
  (∀ (a c : Half) (b d : Byte) (poly : Half),
      crcStep (a ^^^ c) (b ^^^ d) poly = crcStep a b poly ^^^ crcStep c d poly) ∧
    (∀ (x : List Byte) (poly i1 i2 : Half),
      crc16 x poly i1 ^^^ crc16 x poly i2 = crc16 (List.replicate x.length 0#8) poly (i1 ^^^ i2)) ∧
    frameCrc [0x01#8, 0x02#8] = 0x97B3#16 ∧ frameCrc [0x02#8, 0x01#8] = 0xF283#16

/-- R112 and R231: every command but those of the CRC sub-unit neither reads nor writes the CRC registers: changing them
first changes nothing else in its outcome, and it leaves them as they are. -/
def Obligations.OtherCommandsIgnoreTheCrcRegisters : Prop :=
  ∀ (i : Instr) (s : State) (acc poly init : Half), usesCrcRegisters i = false →
    exec i { s with crcAcc := acc, crcPoly := poly, crcInit := init } =
      mapNext (fun t => { t with crcAcc := acc, crcPoly := poly, crcInit := init }) (exec i s) ∧
    ∀ t, exec i s = .next t → t.crcAcc = s.crcAcc ∧ t.crcPoly = s.crcPoly ∧ t.crcInit = s.crcInit

/-- Frame of CRC.INIT, CRC.BYTE and CRC.BUF: only `CRC_ACC` and `STATUS.ERR` may change, and every byte of every buffer
and of the image reads as before. -/
def Obligations.CrcCommandsFrame : Prop :=
  ∀ (i : Instr) (s t : State), usesCrcRegisters i = true → exec i s = .next t →
    t = { s with crcAcc := t.crcAcc, err := t.err } ∧ sameBytesExcept [] s t ∧ sameImage s t

/-! ### The frame codec -/

/-- R121 with R120 and R85: `FRM.ENC` with a kind 0 to 5 puts in TXBUF the marker, the kind, the length low byte first,
the payload, and the CRC of all that low byte first, and the CRC in `TX_CRC`; a kind above 5 raises `E_BAD_KIND`; its word is 0x00000010. -/
def Obligations.FrmEncWritesTheFrame : Prop :=
  decode 0x00000010#32 = .instr .frmEnc ∧ ∀ s : State, Memory.wf s = true →
    let n := s.pbuf.length
    let head := [0xA5#8, s.txKind, BitVec.ofNat 8 n, BitVec.ofNat 8 (n / 256)] ++ s.pbuf
    let crc := frameCrc head
    (s.txKind.toNat ≤ 5 → exec .frmEnc s =
      .next { s with txbuf := head ++ [BitVec.ofNat 8 crc.toNat, BitVec.ofNat 8 (crc.toNat / 256)], txCrc := crc, err := .ok }) ∧
    (5 < s.txKind.toNat → exec .frmEnc s = .next { s with err := .badKind })

/-- The six kind rows (R88, log entry 2): each frames PBUF with its own code in byte 1 of the frame, and `FRM.ENC` with
that code in `TX_KIND` does the same. -/
def Obligations.KindRowsFrameWithTheirCode : Prop :=
  ∀ p ∈ [(0#8, Instr.kindInvalid), (1#8, .kindFlashStart), (2#8, .kindFlashData), (3#8, .kindFlashMac),
      (4#8, .kindValidateFlash), (5#8, .kindSendSignature)], ∀ s : State, Memory.wf s = true →
    let head := [0xA5#8, p.1, BitVec.ofNat 8 s.pbuf.length, BitVec.ofNat 8 (s.pbuf.length / 256)] ++ s.pbuf
    let crc := frameCrc head
    exec p.2 s =
      .next { s with txbuf := head ++ [BitVec.ofNat 8 crc.toNat, BitVec.ofNat 8 (crc.toNat / 256)], txCrc := crc, err := .ok } ∧
    (s.txKind = p.1 → exec .frmEnc s = exec p.2 s)

/-- R123 with R122: `FRM.DEC` on a frame of fewer than 6 bytes, on one whose length field is not its byte count less 6,
and on any other, which it takes apart field by field. -/
def Obligations.FrmDecTakesTheFrameApart : Prop :=
  decode 0x00000011#32 = .instr .frmDec ∧
    (∀ s : State, s.rxbuf.length < 6 → exec .frmDec s = .next { s with decValid := false, err := .frameShort }) ∧
    ∀ (s : State) (marker kind l0 l1 c0 c1 : Byte) (payload : List Byte),
      s.rxbuf = [marker, kind, l0, l1] ++ payload ++ [c0, c1] →
        (l0.toNat + 256 * l1.toNat ≠ payload.length →
          exec .frmDec s = .next { s with decValid := false, err := .lenMismatch }) ∧
        (l0.toNat + 256 * l1.toNat = payload.length →
          exec .frmDec s = .next { s with
              rxMarker := marker, rxKind := kind, rxHdrLen := l1 ++ l0, rpbuf := payload,
              rxCrc := c1 ++ c0, decValid := true, err := .ok })

/-- R125 with R124: `FRM.VAL` without a decoded packet, and the four checks in their order, each reported only when those
before it pass. -/
def Obligations.FrmValChecksInOrder : Prop :=
  decode 0x00000012#32 = .instr .frmVal ∧ ∀ s : State,
    let markerOk := s.rxMarker = 0xA5#8
    let kindOk := s.kindEn = true → s.rxKind = s.expKind
    let payloadOk := s.payloadEn = true → s.rpbuf = s.expbuf
    let crcOk := frameCrc ([s.rxMarker, s.rxKind] ++ le16 s.rxHdrLen ++ s.rpbuf) = s.rxCrc
    (s.decValid = false → exec .frmVal s = .next { s with err := .noFrame }) ∧
    (s.decValid = true →
      (¬ markerOk → exec .frmVal s = .next { s with err := .badMarker }) ∧
      (markerOk ∧ ¬ kindOk → exec .frmVal s = .next { s with err := .unexpKind }) ∧
      (markerOk ∧ kindOk ∧ ¬ payloadOk → exec .frmVal s = .next { s with err := .unexpPayload }) ∧
      (markerOk ∧ kindOk ∧ payloadOk ∧ ¬ crcOk → exec .frmVal s = .next { s with err := .crcMismatch }) ∧
      (markerOk ∧ kindOk ∧ payloadOk ∧ crcOk → exec .frmVal s = .next { s with err := .ok }))

/-- R126 with R124: `FRM.VACK` always checks the kind against EXP_KIND and the payload against [0x55], whatever the
enables and EXPBUF hold. -/
def Obligations.FrmVackChecksAnAck : Prop :=
  decode 0x00000013#32 = .instr .frmVack ∧ ∀ s : State,
    let markerOk := s.rxMarker = 0xA5#8
    let kindOk := s.rxKind = s.expKind
    let payloadOk := s.rpbuf = [0x55#8]
    let crcOk := frameCrc ([s.rxMarker, s.rxKind] ++ le16 s.rxHdrLen ++ s.rpbuf) = s.rxCrc
    (s.decValid = false → exec .frmVack s = .next { s with err := .noFrame }) ∧
    (s.decValid = true →
      (¬ markerOk → exec .frmVack s = .next { s with err := .badMarker }) ∧
      (markerOk ∧ ¬ kindOk → exec .frmVack s = .next { s with err := .unexpKind }) ∧
      (markerOk ∧ kindOk ∧ ¬ payloadOk → exec .frmVack s = .next { s with err := .unexpPayload }) ∧
      (markerOk ∧ kindOk ∧ payloadOk ∧ ¬ crcOk → exec .frmVack s = .next { s with err := .crcMismatch }) ∧
      (markerOk ∧ kindOk ∧ payloadOk ∧ crcOk → exec .frmVack s = .next { s with err := .ok }))

/-- R127: every encoded frame of a kind 0 to 5 decodes to its kind, length and payload and validates under the
expectations of its own kind and payload and under any weaker; and on the unit `FRM.ENC`, a load of RXBUF from TXBUF,
`FRM.DEC` and `FRM.VAL` with both expectations set so end with `STATUS.ERR = 0`. -/
def Obligations.EncodedFramesDecodeAndValidate : Prop :=
  (∀ (k : Byte) (p : List Byte), k.toNat ≤ 5 → p.length ≤ 65535 →
      ∃ q, decodeFrame (encodeFrame k p) = .ok q ∧ q.marker = 0xA5#8 ∧ q.kind = k ∧ q.len.toNat = p.length ∧
        q.payload = p ∧ ∀ ek ep, (ek = some k ∨ ek = none) → (ep = some p ∨ ep = none) → validate q ek ep = .ok) ∧
    ∀ s : State, Memory.wf s = true → s.txKind.toNat ≤ 5 →
      ∃ t u v, exec .frmEnc s = .next t ∧ exec .frmDec { t with rxbuf := t.txbuf } = .next u ∧
        exec .frmVal { u with kindEn := true, payloadEn := true, expKind := s.txKind, expbuf := s.pbuf } = .next v ∧
        v.err = .ok

/-- R128: one changed bit in the bytes of a frame before its CRC field, the CRC field unchanged, is always caught: by the
length check at decode, or by the validator whatever its expectations. -/
def Obligations.SingleBitErrorsAreCaught : Prop :=
  ∀ (kind : Byte) (payload : List Byte) (i bit : Nat), payload.length ≤ 65535 → i < 4 + payload.length → bit < 8 →
    let f := encodeFrame kind payload
    let g := f.set i (f.getD i 0#8 ^^^ (1#8 <<< bit))
    decodeFrame g = .error .lenMismatch ∨
      ∃ q, decodeFrame g = .ok q ∧ ∀ ek ep, validate q ek ep ≠ .ok

/-- Frame of the FRM commands and of the kind rows (what a kind row does is the model's choice, log entry 2): FRM.ENC and
the kind rows write TXBUF and `TX_CRC` only, FRM.DEC the
decoded-packet registers, RPBUF and DEC_VALID only, FRM.VAL and FRM.VACK nothing; `STATUS.ERR` apart. -/
def Obligations.FrameCommandsFrame : Prop :=
  ∀ s t : State,
    (∀ i ∈ [Instr.frmEnc, .kindInvalid, .kindFlashStart, .kindFlashData, .kindFlashMac, .kindValidateFlash,
        .kindSendSignature], exec i s = .next t →
      t = { s with txbuf := t.txbuf, txCrc := t.txCrc, err := t.err } ∧ sameBytesExcept [.txbuf] s t ∧ sameImage s t) ∧
    (exec .frmDec s = .next t →
      t = { s with
          rxMarker := t.rxMarker, rxKind := t.rxKind, rxHdrLen := t.rxHdrLen, rxCrc := t.rxCrc, rpbuf := t.rpbuf,
          decValid := t.decValid, err := t.err } ∧ sameBytesExcept [.rpbuf] s t ∧ sameImage s t) ∧
    (∀ i ∈ [Instr.frmVal, .frmVack], exec i s = .next t →
      t = { s with err := t.err } ∧ sameBytesExcept [] s t ∧ sameImage s t)

/-! ### The image unit -/

/-- R141: `IMG.CLR` empties the store, clears the base and DIG_VALID, and is refused with `E_SEQ_STATE` in READY and
AWAIT. -/
def Obligations.ImgClrStartsANewParse : Prop :=
  decode 0x00000020#32 = .instr .imgClr ∧
    ∀ s : State,
      (s.seq = .ready ∨ s.seq = .await → exec .imgClr s = .next { s with err := .seqState }) ∧
      (¬ (s.seq = .ready ∨ s.seq = .await) →
        exec .imgClr s = .next { s with blk := [], imgBase := 0#32, digValid := false, err := .ok })

/-- R143 with R142: every case of `IMG.REC`, in the order of its checks. -/
def Obligations.ImgRecReplaysTheRecord : Prop :=
  decode 0x00000021#32 = .instr .imgRec ∧ ∀ s : State,
    let a := s.imgBase.toNat + s.recOffset.toNat
    (s.seq = .ready ∨ s.seq = .await → exec .imgRec s = .next { s with err := .seqState }) ∧
    (¬ (s.seq = .ready ∨ s.seq = .await) →
      (s.recType = 0x04#8 → exec .imgRec s =
        .next { s with imgBase := BitVec.ofNat 32 (s.recValue.toNat * 65536), err := .ok }) ∧
      (s.recType = 0x02#8 → exec .imgRec s =
        .next { s with imgBase := BitVec.ofNat 32 (s.recValue.toNat * 16), err := .ok }) ∧
      (s.recType = 0x00#8 → a + s.rdbuf.length > 0xFFFFFFFF → exec .imgRec s = .next { s with err := .addrRange }) ∧
      (s.recType = 0x00#8 → a + s.rdbuf.length ≤ 0xFFFFFFFF → s.blk.length = Config.maxBlocks →
        exec .imgRec s = .next { s with err := .blockFull }) ∧
      (s.recType = 0x00#8 → a + s.rdbuf.length ≤ 0xFFFFFFFF → s.blk.length ≠ Config.maxBlocks →
        ∃ b : Block, b.addr.toNat = a ∧ b.data = s.rdbuf ∧
          exec .imgRec s = .next { s with blk := s.blk ++ [b], digValid := false, err := .ok }) ∧
      (s.recType ≠ 0x00#8 → s.recType ≠ 0x02#8 → s.recType ≠ 0x04#8 → exec .imgRec s = .next { s with err := .ok }))

/-- The six record rows (R94, log entry 2): outside READY and AWAIT each completes with its own effect, and each is what
`IMG.REC` does with its code in `REC_CTRL.TYPE`. -/
def Obligations.RecordRowsReplayTheirKind : Prop :=
  (∀ s : State, ¬ (s.seq = .ready ∨ s.seq = .await) →
      (∀ a : Word, a.toNat = s.imgBase.toNat + s.recOffset.toNat → a.toNat + s.rdbuf.length ≤ 0xFFFFFFFF →
        s.blk.length < Config.maxBlocks → exec .recData s =
          .next { s with blk := s.blk ++ [{ addr := a, data := s.rdbuf }], digValid := false, err := .ok }) ∧
      exec .recExtSegment s = .next { s with imgBase := BitVec.ofNat 32 (s.recValue.toNat * 16), err := .ok } ∧
      exec .recExtLinear s = .next { s with imgBase := BitVec.ofNat 32 (s.recValue.toNat * 65536), err := .ok } ∧
      exec .recEof s = .next { s with err := .ok } ∧ exec .recStartSegment s = .next { s with err := .ok } ∧
      exec .recStartLinear s = .next { s with err := .ok }) ∧
    ∀ p ∈ [(0x00#8, Instr.recData), (0x01#8, .recEof), (0x02#8, .recExtSegment), (0x03#8, .recStartSegment),
        (0x04#8, .recExtLinear), (0x05#8, .recStartLinear)], ∀ s : State, s.recType = p.1 → exec .imgRec s = exec p.2 s

/-- R140: after `IMG.CLR`, replaying a record stream leaves in `BLK` exactly the blocks that the parse of the stream
emits, in order, if no block ends above 0xFFFFFFFF and they fit the store. -/
def Obligations.ReplayLeavesTheParsedBlocks : Prop :=
  ∀ (s t : State) (rs : List Record), ¬ (s.seq = .ready ∨ s.seq = .await) → exec .imgClr s = .next t →
    (parseRecords 0 rs).length ≤ Config.maxBlocks → (∀ b ∈ parseRecords 0 rs, b.addr.toNat + b.data.length ≤ 0xFFFFFFFF) →
      ∃ u, replayAll rs t = some u ∧ u.blk = parseRecords 0 rs

/-- R146 with R145: `IMG.WIN` on an empty store, and else the least start and the greatest end of the blocks, each
attained by a block. -/
def Obligations.ImgWinSetsTheTightWindow : Prop :=
  decode 0x00000022#32 = .instr .imgWin ∧
    (∀ s : State, s.blk = [] → exec .imgWin s = .next { s with err := .noData }) ∧
    ∀ s : State, s.blk ≠ [] → (∀ b ∈ s.blk, b.wf = true) →
      ∃ lo hi : Word, exec .imgWin s = .next { s with winMin := lo, winMax := hi, err := .ok } ∧
        (∀ b ∈ s.blk, lo.toNat ≤ b.addr.toNat ∧ b.addr.toNat + b.data.length ≤ hi.toNat) ∧
        (∃ b ∈ s.blk, b.addr = lo) ∧ ∃ b ∈ s.blk, b.addr.toNat + b.data.length = hi.toNat

/-- R149: `IMG.HASH` with `WIN_MIN >= WIN_MAX` raises `E_INVALID_WINDOW`; else DIGBUF holds the digest of the window
image and DIG_VALID is set. The digest has 32 bytes. -/
def Obligations.ImgHashDigestsTheWindowImage : Prop :=
  decode 0x00000023#32 = .instr .imgHash ∧
    (∀ s : State, s.winMin.toNat ≥ s.winMax.toNat → exec .imgHash s = .next { s with err := .invalidWindow }) ∧
    ∀ s : State, s.winMin.toNat < s.winMax.toNat →
      exec .imgHash s = .next { s with
          digbuf := Sha256.digest (windowImage s.blk s.winMin.toNat s.winMax.toNat),
          digValid := true, err := .ok } ∧
      (Sha256.digest (windowImage s.blk s.winMin.toNat s.winMax.toNat)).length = 32

/-- R148 with R147: the window image has `hi - lo` bytes, and at each address the byte of the last block in stream order
that covers it, 0xFF where none does. -/
def Obligations.WindowImageHoldsTheLastBlock : Prop :=
  ∀ (bs : List Block) (lo hi x : Nat), lo ≤ x → x < hi →
    (windowImage bs lo hi).length = hi - lo ∧
    ((∀ b ∈ bs, ¬ (b.addr.toNat ≤ x ∧ x < b.addr.toNat + b.data.length)) →
      (windowImage bs lo hi)[x - lo]? = some 0xFF#8) ∧
    ∀ (before after : List Block) (b : Block), bs = before ++ b :: after →
      b.addr.toNat ≤ x → x < b.addr.toNat + b.data.length →
      (∀ c ∈ after, ¬ (c.addr.toNat ≤ x ∧ x < c.addr.toNat + c.data.length)) →
        (windowImage bs lo hi)[x - lo]? = b.data[x - b.addr.toNat]?

/-- Frame of the IMG commands and of the record rows (what a record row does is the model's choice, log entry 2). A data record stores its bytes at the image addresses from
`recordAddr s` on, and every other image address reads as before; the other record kinds, IMG.WIN and IMG.HASH change no
image address; the only buffer any of them writes is DIGBUF, by IMG.HASH. -/
def Obligations.ImageCommandsFrame : Prop :=
  ∀ s t : State,
    (exec .imgClr s = .next t →
      t = { s with blk := t.blk, imgBase := t.imgBase, digValid := t.digValid, err := t.err } ∧ sameBytesExcept [] s t) ∧
    (∀ i ∈ [Instr.imgRec, .recData], exec i s = .next t →
      t = { s with blk := t.blk, imgBase := t.imgBase, digValid := t.digValid, err := t.err } ∧ sameBytesExcept [] s t ∧
      (∀ x, x < recordAddr s ∨ recordAddr s + s.rdbuf.length ≤ x → imageByte t.blk x = imageByte s.blk x) ∧
      (t.err ≠ .ok ∨ (i = .imgRec ∧ s.recType ≠ 0x00#8) → t.blk = s.blk ∧ sameImage s t) ∧
      (i = .recData ∨ s.recType = 0x00#8 → t.imgBase = s.imgBase)) ∧
    (∀ i ∈ [Instr.recExtSegment, .recExtLinear], exec i s = .next t →
      t = { s with imgBase := t.imgBase, err := t.err } ∧ sameBytesExcept [] s t ∧ sameImage s t) ∧
    (∀ i ∈ [Instr.recEof, .recStartSegment, .recStartLinear], exec i s = .next t →
      t = { s with err := t.err } ∧ sameBytesExcept [] s t ∧ sameImage s t) ∧
    (exec .imgWin s = .next t →
      t = { s with winMin := t.winMin, winMax := t.winMax, err := t.err } ∧ sameBytesExcept [] s t ∧ sameImage s t) ∧
    (exec .imgHash s = .next t →
      t = { s with digbuf := t.digbuf, digValid := t.digValid, err := t.err } ∧ sameBytesExcept [.digbuf] s t ∧ sameImage s t)

/-! ### The merger and the sequencer -/

/-- R160: the pieces in order are the data; every piece but the last has exactly `n` bytes; the last is never empty and
has what is left; no data gives no piece. -/
def Obligations.ChunkCutsIntoFullPieces : Prop :=
  ∀ (d : List Byte) (n : Nat), 1 ≤ n →
    (chunk d n).flatten = d ∧ (chunk d n).length = (d.length + n - 1) / n ∧
    (∀ j, j + 1 < (chunk d n).length → ((chunk d n).getD j []).length = n) ∧
    ∀ k, (chunk d n).length = k + 1 →
      ((chunk d n).getD k []).length = d.length - n * k ∧ (chunk d n).getD k [] ≠ []

/-- R161: `merge` is the loop the rule writes: blocks in stream order, a pending block, flushed when the next does not
join it and at the end. -/
def Obligations.MergeIsTheLoopOfTheRule : Prop :=
  ∀ (bs : List Block) (limit : Nat),
    merge bs limit = (bs.foldl (mergeStep limit) ([], none)).1 ++ (bs.foldl (mergeStep limit) ([], none)).2.toList

/-- R162: unit `j` of a flushed block stands `j * cs` bytes after the block's start and carries chunk `j`; an empty block
gives no unit; no unit's address exceeds 0xFFFFFFFF. -/
def Obligations.FlushAddressesEachChunk : Prop :=
  ∀ (m : Block) (cs : Nat), 1 ≤ cs → m.addr.toNat + m.data.length ≤ 0xFFFFFFFF →
    (flush m cs).map Prod.snd = chunk m.data cs ∧
    (∀ j u, (flush m cs)[j]? = some u → u.1.toNat = m.addr.toNat + j * cs ∧ u.1.toNat ≤ 0xFFFFFFFF) ∧
    (m.data = [] → flush m cs = [])

/-- R174 with R162: the DATA units of a plan carry every byte of every block, in stream order, each at its own image
address, and nothing else; so for blocks that do not overlap each address is carried once. -/
def Obligations.PlanCoversTheBlocksExactly : Prop :=
  ∀ (bs : List Block) (maxp cs : Nat) (marker : Word), 1 ≤ cs → bs ≠ [] →
    (∀ b ∈ bs, b.addr.toNat + b.data.length ≤ 0xFFFFFFFF) →
    ∃ (us : List (Word × List Byte)) (lo hi : Word), plan bs maxp cs marker = us.map dataEntry ++ [metaEntry marker lo hi] ∧
      us.flatMap (fun u => addressedBytes u.1.toNat u.2) = bs.flatMap (fun b => addressedBytes b.addr.toNat b.data) ∧
      (bs.Pairwise (fun b c => b.addr.toNat + b.data.length ≤ c.addr.toNat ∨ c.addr.toNat + c.data.length ≤ b.addr.toNat) →
        ((us.flatMap (fun u => addressedBytes u.1.toNat u.2)).map Prod.fst).Nodup)

/-- R164 with R165, R65, R91 and R92: under a legal configuration a plan is DATA entries and one META entry, the last. A
DATA frame is a FlashData frame of the four address bytes, most significant first, then the chunk of 1 to `cs` bytes. The
META frame is a FlashData frame of 18 bytes whose payload is the marker, most significant byte first, then `lo` and `hi`,
least significant byte first; for blocks within R40's bound `(lo, hi)` is the window of the blocks, tight on both sides.
Every payload fits `MAX_PAYLOAD`. -/
def Obligations.PlannedFramesFitMaxPayload : Prop :=
  ∀ (bs : List Block) (maxp cs : Nat) (marker : Word), bs ≠ [] → 12 ≤ maxp → 1 ≤ cs → cs ≤ maxp - 4 → maxp ≤ 65535 →
    let high (a : Word) : List Byte := [BitVec.ofNat 8 (a.toNat / 16777216), BitVec.ofNat 8 (a.toNat / 65536),
      BitVec.ofNat 8 (a.toNat / 256), BitVec.ofNat 8 a.toNat]
    let low (a : Word) : List Byte := [BitVec.ofNat 8 a.toNat, BitVec.ofNat 8 (a.toNat / 256),
      BitVec.ofNat 8 (a.toNat / 65536), BitVec.ofNat 8 (a.toNat / 16777216)]
    ∃ es m, ∃ lo hi : Word, plan bs maxp cs marker = es ++ [m] ∧
      (∀ e ∈ es, e.tag = .firmware ∧ 1 ≤ e.data.length ∧ e.data.length ≤ cs ∧
        e.frame = encodeFrame 2#8 (high e.addr ++ e.data) ∧ e.frame.length = 6 + (4 + e.data.length) ∧
        4 + e.data.length ≤ maxp) ∧
      m.tag = .metadata ∧ m.addr = marker ∧ m.data = [] ∧
      m.frame = encodeFrame 2#8 (high marker ++ low lo ++ low hi) ∧ m.frame.length = 18 ∧
      ((∀ b ∈ bs, b.addr.toNat + b.data.length ≤ 0xFFFFFFFF) →
        (∀ b ∈ bs, lo.toNat ≤ b.addr.toNat ∧ b.addr.toNat + b.data.length ≤ hi.toNat) ∧
        (∃ b ∈ bs, b.addr = lo) ∧ ∃ b ∈ bs, b.addr.toNat + b.data.length = hi.toNat)

/-- R166 with R165: every case of `MRG.START`, in the order of its checks. -/
def Obligations.MrgStartPlansTheSequence : Prop :=
  decode 0x00000030#32 = .instr .mrgStart ∧ ∀ s : State,
    let maxp := s.maxPayload.toNat
    let cs := s.chunkSize.toNat
    let legal := 12 ≤ maxp ∧ 1 ≤ cs ∧ cs ≤ maxp - 4
    (s.seq = .ready ∨ s.seq = .await → exec .mrgStart s = .next { s with err := .seqState }) ∧
    (¬ (s.seq = .ready ∨ s.seq = .await) →
      (¬ legal → exec .mrgStart s = .next { s with err := .badConfig }) ∧
      (legal → s.blk = [] → exec .mrgStart s = .next { s with err := .noData }) ∧
      (legal → s.blk ≠ [] → (∀ b ∈ s.blk, b.wf = true) → s.blk.length ≤ Config.maxBlocks →
        ∃ lo hi total : Word, exec .mrgStart s =
            .next { s with
                appMin := lo, appMax := hi, seqFrames := plan s.blk maxp cs s.metaMarker, seqIdx := 0,
                progTotal := total, progSent := 0#32, cursor := 0#32, seq := .ready, err := .ok } ∧
          (∀ b ∈ s.blk, lo.toNat ≤ b.addr.toNat ∧ b.addr.toNat + b.data.length ≤ hi.toNat) ∧
          (∃ b ∈ s.blk, b.addr = lo) ∧ (∃ b ∈ s.blk, b.addr.toNat + b.data.length = hi.toNat) ∧
          total.toNat = (s.blk.map (fun b => b.data.length)).sum))

/-- R167: `MRG.NEXT` in READY puts the frame at `SEQ_IDX` in TXBUF and its CRC in `TX_CRC`, sets `CURSOR` for a DATA
entry only, and awaits the ACK; in every other state it raises `E_SEQ_STATE`. In READY there is such an entry in every
state of the invariant. -/
def Obligations.MrgNextSendsThePlannedFrame : Prop :=
  decode 0x00000031#32 = .instr .mrgNext ∧
    (∀ s : State, s.seq ≠ .ready → exec .mrgNext s = .next { s with err := .seqState }) ∧
    ∀ s : State, s.Inv → s.seq = .ready →
      ∃ e pre c0 c1, s.seqFrames[s.seqIdx]? = some e ∧ e.frame = pre ++ [c0, c1] ∧
        (e.tag = .firmware → exec .mrgNext s =
          .next { s with txbuf := e.frame, txCrc := c1 ++ c0, cursor := e.addr, seq := .await, err := .ok }) ∧
        (e.tag = .metadata → exec .mrgNext s =
          .next { s with txbuf := e.frame, txCrc := c1 ++ c0, seq := .await, err := .ok })

/-- R168: `MRG.ACK` outside AWAIT; on a frame that does not decode; on one that decodes and fails a check, which the
decoded-packet registers then show; and on a FlashData ACK, which counts the bytes of a DATA entry, moves the cursor past
them, and advances to READY, or to DONE after the last entry. -/
def Obligations.MrgAckChecksTheResponse : Prop :=
  decode 0x00000032#32 = .instr .mrgAck ∧
    (∀ s : State, s.seq ≠ .await → exec .mrgAck s = .next { s with err := .seqState }) ∧
    (∀ (s : State) (x : ErrCode), s.seq = .await → decodeFrame s.rxbuf = .error x →
      exec .mrgAck s = .next { s with decValid := false, seq := .failed, err := x }) ∧
    (∀ (s : State) (p : Packet), s.seq = .await → decodeFrame s.rxbuf = .ok p →
      validate p (some 2#8) (some [0x55#8]) ≠ .ok →
        exec .mrgAck s = .next { s with
            rxMarker := p.marker, rxKind := p.kind, rxHdrLen := p.len, rxCrc := p.crcRx,
            rpbuf := p.payload, decValid := true, seq := .failed, err := validate p (some 2#8) (some [0x55#8]) }) ∧
    ∀ (s : State) (p : Packet), s.Inv → s.seq = .await → decodeFrame s.rxbuf = .ok p →
      validate p (some 2#8) (some [0x55#8]) = .ok →
        ∃ e, s.seqFrames[s.seqIdx]? = some e ∧ ∀ nextState : SeqState,
          nextState = (if s.seqIdx + 1 = s.seqFrames.length then SeqState.done else .ready) →
          (e.tag = .firmware → ∃ sent cursor : Word,
            sent.toNat = s.progSent.toNat + e.data.length ∧ cursor = e.addr + BitVec.ofNat 32 e.data.length ∧
            exec .mrgAck s = .next { s with
                rxMarker := p.marker, rxKind := p.kind, rxHdrLen := p.len, rxCrc := p.crcRx,
                rpbuf := p.payload, decValid := true, progSent := sent, cursor := cursor, seqIdx := s.seqIdx + 1,
                seq := nextState, err := .ok }) ∧
          (e.tag = .metadata →
            exec .mrgAck s = .next { s with
                rxMarker := p.marker, rxKind := p.kind, rxHdrLen := p.len, rxCrc := p.crcRx,
                rpbuf := p.payload, decValid := true, seqIdx := s.seqIdx + 1, seq := nextState, err := .ok })

/-- R169: `MRG.ABORT c` in READY and AWAIT records the cause, fails the sequence and reports `E_HOST_ABORT`; elsewhere it
raises `E_SEQ_STATE`; its word is 0x0000cc33. -/
def Obligations.MrgAbortFailsTheSequence : Prop :=
  ∀ (c : Byte) (s : State), decode (BitVec.ofNat 32 (c.toNat * 256 + 0x33)) = .instr (.mrgAbort c) ∧
    (s.seq = .ready ∨ s.seq = .await →
      exec (.mrgAbort c) s = .next { s with abortCause := c, seq := .failed, err := .hostAbort }) ∧
    (¬ (s.seq = .ready ∨ s.seq = .await) → exec (.mrgAbort c) s = .next { s with err := .seqState })

/-- R172: the sequencer changes state only by the listed transitions, whatever the instruction; and every pair of a
sequencer-checked command and a state that is not listed raises `E_SEQ_STATE` and changes nothing else. That the six
record rows are so checked, as IMG.REC is, is the model's choice (log entry 2). -/
def Obligations.SequencerTransitions : Prop :=
  (∀ (i : Instr) (s t : State), exec i s = .next t → t.seq ≠ s.seq →
      (i = .mrgStart ∧ s.seq ∈ [SeqState.idle, .done, .failed] ∧ t.seq = .ready ∧ t.err = .ok) ∨
      (i = .mrgNext ∧ s.seq = .ready ∧ t.seq = .await ∧ t.err = .ok) ∨
      ((∃ c, i = .mrgAbort c) ∧ s.seq ∈ [SeqState.ready, .await] ∧ t.seq = .failed ∧ t.err = .hostAbort) ∨
      (i = .mrgAck ∧ s.seq = .await ∧ t.seq ∈ [SeqState.ready, .done] ∧ t.err = .ok) ∨
      (i = .mrgAck ∧ s.seq = .await ∧ t.seq = .failed ∧ t.err ≠ .ok)) ∧
    (∀ s : State, s.seq ∈ [SeqState.ready, .await] →
      ∀ i ∈ [Instr.mrgStart, .imgClr, .imgRec, .recData, .recExtSegment, .recExtLinear, .recEof, .recStartSegment,
        .recStartLinear], exec i s = .next { s with err := .seqState }) ∧
    ∀ s : State, (s.seq ≠ .ready → exec .mrgNext s = .next { s with err := .seqState }) ∧
      (s.seq ≠ .await → exec .mrgAck s = .next { s with err := .seqState }) ∧
      (s.seq ∉ [SeqState.ready, .await] → ∀ c, exec (.mrgAbort c) s = .next { s with err := .seqState })

/-- R230: the sequence is a snapshot: `MRG.NEXT` and `MRG.ACK` read neither the block store nor `MAX_PAYLOAD`,
`CHUNK_SIZE` and `META_MARKER`, nor the record registers, RDBUF, `IMG_BASE` and the window. -/
def Obligations.SequenceIsASnapshot : Prop :=
  ∀ (i : Instr) (s : State) (blk : List Block) (maxp cs offset value : Half) (type : Byte) (data : List Byte)
    (marker base lo hi : Word), i = .mrgNext ∨ i = .mrgAck →
    exec i { s with
        blk := blk, maxPayload := maxp, chunkSize := cs, metaMarker := marker, imgBase := base, winMin := lo,
        winMax := hi, recType := type, recOffset := offset, recValue := value, rdbuf := data } =
      mapNext (fun t => { t with
          blk := blk, maxPayload := maxp, chunkSize := cs, metaMarker := marker, imgBase := base,
          winMin := lo, winMax := hi, recType := type, recOffset := offset, recValue := value, rdbuf := data }) (exec i s)

/-- Frame of the MRG commands: what each may write, and that MRG.START and MRG.ABORT write no buffer, MRG.NEXT only
TXBUF and MRG.ACK only RPBUF; none changes what an image address holds. -/
def Obligations.SequencerCommandsFrame : Prop :=
  ∀ s t : State,
    (exec .mrgStart s = .next t →
      t = { s with
          seqFrames := t.seqFrames, seqIdx := t.seqIdx, appMin := t.appMin, appMax := t.appMax,
          progTotal := t.progTotal, progSent := t.progSent, cursor := t.cursor, seq := t.seq, err := t.err } ∧
      sameBytesExcept [] s t ∧ sameImage s t) ∧
    (exec .mrgNext s = .next t →
      t = { s with txbuf := t.txbuf, txCrc := t.txCrc, cursor := t.cursor, seq := t.seq, err := t.err } ∧
      sameBytesExcept [.txbuf] s t ∧ sameImage s t) ∧
    (exec .mrgAck s = .next t →
      t = { s with
          rxMarker := t.rxMarker, rxKind := t.rxKind, rxHdrLen := t.rxHdrLen, rxCrc := t.rxCrc, rpbuf := t.rpbuf,
          decValid := t.decValid, progSent := t.progSent, cursor := t.cursor, seqIdx := t.seqIdx, seq := t.seq, err := t.err } ∧
      sameBytesExcept [.rpbuf] s t ∧ sameImage s t) ∧
    ∀ c, exec (.mrgAbort c) s = .next t →
      t = { s with abortCause := t.abortCause, seq := t.seq, err := t.err } ∧ sameBytesExcept [] s t ∧ sameImage s t

/-- A whole Flash step (R164, R166 to R168, R170): from a state just started, one exchange for each planned entry, each
answered by the FlashData ACK, sends exactly the planned frames in their order and ends in DONE with every byte counted. -/
def Obligations.FlashStepSendsThePlanAndCompletes : Prop :=
  ∀ s t : State, s.Inv → exec .mrgStart s = .next t → t.err = .ok →
    ∃ u, exchanges flashDataAck t.seqFrames.length t = some (t.seqFrames.map SeqEntry.frame, u) ∧ u.seq = .done ∧
      u.seqIdx = t.seqFrames.length ∧ u.progSent = u.progTotal ∧ u.progTotal = t.progTotal ∧ u.err = .ok

/-- The source's two merge examples (R171), for any two byte values: 300 and 50 bytes do not merge and the first block is
cut into 252 and 48; 100 and 50 bytes merge into one send. -/
def Obligations.MergeExamplesOfTheSource : Prop :=
  ∀ (a b : Byte) (marker : Word),
    plan [{ addr := 0#32, data := List.replicate 300 a }, { addr := 300#32, data := List.replicate 50 b }] 256 252 marker =
        [dataEntry (0#32, List.replicate 252 a), dataEntry (252#32, List.replicate 48 a),
          dataEntry (300#32, List.replicate 50 b), metaEntry marker 0#32 350#32] ∧
      plan [{ addr := 0#32, data := List.replicate 100 a }, { addr := 100#32, data := List.replicate 50 b }] 256 252 marker =
        [dataEntry (0#32, List.replicate 100 a ++ List.replicate 50 b), metaEntry marker 0#32 150#32]

/-! ### Errors and whole-machine rules -/

/-- R191 and R193: the number of each completion code in `STATUS.ERR`, each command completes only with a code of its
row, and no code above 0x10 is ever read. -/
def Obligations.CommandsCompleteWithTheirOwnCodes : Prop :=
  (∀ (i : Instr) (s t : State), exec i s = .next t → t.err ∈ allowedCodes i) ∧
    (∀ s : State, (readReg .status s).toNat % 256 ≤ 0x10) ∧
    [ErrCode.ok, .frameShort, .lenMismatch, .badMarker, .unexpKind, .unexpPayload, .crcMismatch, .invalidWindow, .noData,
      .noFrame, .badKind, .addrRange, .blockFull, .badConfig, .seqState, .illegalCmd, .hostAbort].map
        (fun e => (ErrCode.code e).toNat) = List.range 17

/-- R195: a command that completes with an error changes nothing but `STATUS.ERR`, except that a decode error of FRM.DEC
clears DEC_VALID, MRG.ACK fails the sequence and clears DEC_VALID or shows the packet it decoded, and MRG.ABORT records
its cause and fails the sequence; `CMD` always holds the last word written, legal or not. -/
def Obligations.ErrorsChangeNothingElse : Prop :=
  (∀ (s t : State) (w : Word) (rest : List HostAction),
    s.port.pending = .writeReg (Reg.offset .cmd) w :: rest → step s = .next t → t.cmd = w) ∧
  ∀ (i : Instr) (s t : State), exec i s = .next t → t.err ≠ .ok →
    t = { s with err := t.err } ∨
    (i = .frmDec ∧ t.err ∈ [ErrCode.frameShort, .lenMismatch] ∧ t = { s with decValid := false, err := t.err }) ∨
    (i = .mrgAck ∧ t.err ∈ [ErrCode.frameShort, .lenMismatch] ∧
      t = { s with decValid := false, seq := .failed, err := t.err }) ∨
    (i = .mrgAck ∧ t.err ∈ [ErrCode.badMarker, .unexpKind, .unexpPayload, .crcMismatch] ∧
      ∃ p, decodeFrame s.rxbuf = .ok p ∧
        t = { s with
            rxMarker := p.marker, rxKind := p.kind, rxHdrLen := p.len, rxCrc := p.crcRx, rpbuf := p.payload,
            decValid := true, seq := .failed, err := t.err }) ∨
    ∃ c, i = .mrgAbort c ∧ t.err = .hostAbort ∧ t = { s with abortCause := c, seq := .failed, err := t.err }

/-- R24 with R26: the layout of `STATUS`, as a number, and the numbers of the five sequencer states. -/
def Obligations.StatusRegisterLayout : Prop :=
  (∀ s : State, (readReg .status s).toNat =
    s.err.code.toNat + 256 * s.seq.code.toNat + 2048 * s.decValid.toNat + 4096 * s.digValid.toNat) ∧
    [SeqState.idle, .ready, .await, .done, .failed].map (fun q => (SeqState.code q).toNat) = [0, 1, 2, 3, 4]

/-- R34, R36, R37 and R52: the fields of the packed registers, the mirrors of the buffer lengths and of the two counts
`SEQ_IDX` and `SEQ_LEN` (R49, for counts up to 0xFFFFFFFF), and what the other read-only registers read, as numbers. -/
def Obligations.PackedAndMirrorRegisters : Prop :=
  ∀ s : State,
    (readReg .rxHdr s).toNat = s.rxMarker.toNat + 256 * s.rxKind.toNat + 65536 * s.rxHdrLen.toNat ∧
    (readReg .expCtrl s).toNat = s.kindEn.toNat + 2 * s.payloadEn.toNat + 256 * s.expKind.toNat ∧
    (readReg .recCtrl s).toNat = s.recType.toNat + 65536 * s.recOffset.toNat ∧
    (Memory.wf s = true →
      (readReg .txLen s).toNat = s.txbuf.length ∧ (readReg .rxLen s).toNat = s.rxbuf.length ∧
      (readReg .pLen s).toNat = s.pbuf.length ∧ (readReg .rpLen s).toNat = s.rpbuf.length ∧
      (readReg .expLen s).toNat = s.expbuf.length ∧ (readReg .rdLen s).toNat = s.rdbuf.length) ∧
    (s.blk.length ≤ Config.maxBlocks → (readReg .imgCount s).toNat = s.blk.length) ∧
    (s.seqIdx ≤ 0xFFFFFFFF → (readReg .seqIdx s).toNat = s.seqIdx) ∧
    (s.seqFrames.length ≤ 0xFFFFFFFF → (readReg .seqLen s).toNat = s.seqFrames.length) ∧
    (readReg .txCrc s).toNat = s.txCrc.toNat ∧ (readReg .rxCrc s).toNat = s.rxCrc.toNat ∧
    readReg .imgBase s = s.imgBase ∧ readReg .appMin s = s.appMin ∧ readReg .appMax s = s.appMax ∧
    readReg .progSent s = s.progSent ∧ readReg .progTotal s = s.progTotal ∧ readReg .cursor s = s.cursor ∧
    (readReg .abortCause s).toNat = s.abortCause.toNat

/-! ### Invariants -/

/-- The invariant holds after reset. -/
def Obligations.ResetMeetsTheInvariant : Prop := State.reset.Inv

/-- Every step keeps the invariant (R27, R28, R33, R40, R49, R51, R53, R142, R170, R228): from every state that has it, not
only those a run reaches, and whatever the host does. -/
def Obligations.EveryStepKeepsTheInvariant : Prop :=
  ∀ s t : State, s.Inv → step s = .next t → t.Inv

/-- In every state of the invariant every instruction answers a next state: no command ever stops the unit. -/
def Obligations.EveryInstructionCompletes : Prop :=
  ∀ (i : Instr) (s : State), s.Inv → ∃ t, exec i s = .next t ∧ t.cmd = s.cmd ∧ t.port = s.port

/-- The machine never stops unless the host breaks a duty: in every state of the invariant, with a well-formed host
action next or none, there is a next state. -/
def Obligations.OnlyHostDutiesStopTheMachine : Prop :=
  ∀ s : State, s.Inv → s.HostKeepsDuty → ∃ t, step s = .next t

/-- R170: `PROG_SENT` never exceeds `PROG_TOTAL`, and in DONE they are equal. -/
def Obligations.ProgressIsBoundedAndCompleteWhenDone : Prop :=
  ∀ s : State, s.Inv → s.progSent.toNat ≤ s.progTotal.toNat ∧ (s.seq = .done → s.progSent = s.progTotal)

/-- R63 with R143: in every state of the invariant no block covers the image address 0xFFFFFFFF or any above. -/
def Obligations.TopImageAddressIsNeverCovered : Prop :=
  ∀ (s : State) (x : Nat), s.Inv → 0xFFFFFFFF ≤ x → imageByte s.blk x = none

/-! ### The host's side -/

/-- The model's own choice (log entry 14): the reset event gives the state of `State.reset` and leaves the host's pending
actions, but for the reset itself, and its latest reply as they are. -/
def Obligations.ResetKeepsTheHostsSide : Prop :=
  ∀ (s : State) (rest : List HostAction), s.port.pending = .reset :: rest →
    step s = .next { State.reset with port := { s.port with pending := rest } }
end

