-- ==== Sys2Proof/Laws/State.lean ====
section
/-! SUPPORT. One lemma per field per named update of the state, each true by definition, so that no proof unfolds a record update. -/

namespace Sys2Proof.Machine

/-! ### `State.withErr` -/

@[simp] theorem State.withErr_cmd (s : State) (e : ErrCode) : (s.withErr e).cmd = s.cmd := rfl
@[simp] theorem State.withErr_err (s : State) (e : ErrCode) : (s.withErr e).err = e := rfl
@[simp] theorem State.withErr_seq (s : State) (e : ErrCode) : (s.withErr e).seq = s.seq := rfl
@[simp] theorem State.withErr_decValid (s : State) (e : ErrCode) : (s.withErr e).decValid = s.decValid := rfl
@[simp] theorem State.withErr_digValid (s : State) (e : ErrCode) : (s.withErr e).digValid = s.digValid := rfl
@[simp] theorem State.withErr_crcAcc (s : State) (e : ErrCode) : (s.withErr e).crcAcc = s.crcAcc := rfl
@[simp] theorem State.withErr_crcPoly (s : State) (e : ErrCode) : (s.withErr e).crcPoly = s.crcPoly := rfl
@[simp] theorem State.withErr_crcInit (s : State) (e : ErrCode) : (s.withErr e).crcInit = s.crcInit := rfl
@[simp] theorem State.withErr_txKind (s : State) (e : ErrCode) : (s.withErr e).txKind = s.txKind := rfl
@[simp] theorem State.withErr_txCrc (s : State) (e : ErrCode) : (s.withErr e).txCrc = s.txCrc := rfl
@[simp] theorem State.withErr_rxMarker (s : State) (e : ErrCode) : (s.withErr e).rxMarker = s.rxMarker := rfl
@[simp] theorem State.withErr_rxKind (s : State) (e : ErrCode) : (s.withErr e).rxKind = s.rxKind := rfl
@[simp] theorem State.withErr_rxHdrLen (s : State) (e : ErrCode) : (s.withErr e).rxHdrLen = s.rxHdrLen := rfl
@[simp] theorem State.withErr_rxCrc (s : State) (e : ErrCode) : (s.withErr e).rxCrc = s.rxCrc := rfl
@[simp] theorem State.withErr_kindEn (s : State) (e : ErrCode) : (s.withErr e).kindEn = s.kindEn := rfl
@[simp] theorem State.withErr_payloadEn (s : State) (e : ErrCode) : (s.withErr e).payloadEn = s.payloadEn := rfl
@[simp] theorem State.withErr_expKind (s : State) (e : ErrCode) : (s.withErr e).expKind = s.expKind := rfl
@[simp] theorem State.withErr_recType (s : State) (e : ErrCode) : (s.withErr e).recType = s.recType := rfl
@[simp] theorem State.withErr_recOffset (s : State) (e : ErrCode) : (s.withErr e).recOffset = s.recOffset := rfl
@[simp] theorem State.withErr_recValue (s : State) (e : ErrCode) : (s.withErr e).recValue = s.recValue := rfl
@[simp] theorem State.withErr_imgBase (s : State) (e : ErrCode) : (s.withErr e).imgBase = s.imgBase := rfl
@[simp] theorem State.withErr_winMin (s : State) (e : ErrCode) : (s.withErr e).winMin = s.winMin := rfl
@[simp] theorem State.withErr_winMax (s : State) (e : ErrCode) : (s.withErr e).winMax = s.winMax := rfl
@[simp] theorem State.withErr_maxPayload (s : State) (e : ErrCode) : (s.withErr e).maxPayload = s.maxPayload := rfl
@[simp] theorem State.withErr_chunkSize (s : State) (e : ErrCode) : (s.withErr e).chunkSize = s.chunkSize := rfl
@[simp] theorem State.withErr_metaMarker (s : State) (e : ErrCode) : (s.withErr e).metaMarker = s.metaMarker := rfl
@[simp] theorem State.withErr_appMin (s : State) (e : ErrCode) : (s.withErr e).appMin = s.appMin := rfl
@[simp] theorem State.withErr_appMax (s : State) (e : ErrCode) : (s.withErr e).appMax = s.appMax := rfl
@[simp] theorem State.withErr_progSent (s : State) (e : ErrCode) : (s.withErr e).progSent = s.progSent := rfl
@[simp] theorem State.withErr_progTotal (s : State) (e : ErrCode) : (s.withErr e).progTotal = s.progTotal := rfl
@[simp] theorem State.withErr_cursor (s : State) (e : ErrCode) : (s.withErr e).cursor = s.cursor := rfl
@[simp] theorem State.withErr_seqIdx (s : State) (e : ErrCode) : (s.withErr e).seqIdx = s.seqIdx := rfl
@[simp] theorem State.withErr_abortCause (s : State) (e : ErrCode) : (s.withErr e).abortCause = s.abortCause := rfl
@[simp] theorem State.withErr_pbuf (s : State) (e : ErrCode) : (s.withErr e).pbuf = s.pbuf := rfl
@[simp] theorem State.withErr_txbuf (s : State) (e : ErrCode) : (s.withErr e).txbuf = s.txbuf := rfl
@[simp] theorem State.withErr_rxbuf (s : State) (e : ErrCode) : (s.withErr e).rxbuf = s.rxbuf := rfl
@[simp] theorem State.withErr_rpbuf (s : State) (e : ErrCode) : (s.withErr e).rpbuf = s.rpbuf := rfl
@[simp] theorem State.withErr_expbuf (s : State) (e : ErrCode) : (s.withErr e).expbuf = s.expbuf := rfl
@[simp] theorem State.withErr_rdbuf (s : State) (e : ErrCode) : (s.withErr e).rdbuf = s.rdbuf := rfl
@[simp] theorem State.withErr_digbuf (s : State) (e : ErrCode) : (s.withErr e).digbuf = s.digbuf := rfl
@[simp] theorem State.withErr_blk (s : State) (e : ErrCode) : (s.withErr e).blk = s.blk := rfl
@[simp] theorem State.withErr_seqFrames (s : State) (e : ErrCode) : (s.withErr e).seqFrames = s.seqFrames := rfl
@[simp] theorem State.withErr_port (s : State) (e : ErrCode) : (s.withErr e).port = s.port := rfl

/-! ### `State.storeTx` -/

@[simp] theorem State.storeTx_cmd (s : State) (f : List Byte) : (s.storeTx f).cmd = s.cmd := rfl
@[simp] theorem State.storeTx_err (s : State) (f : List Byte) : (s.storeTx f).err = s.err := rfl
@[simp] theorem State.storeTx_seq (s : State) (f : List Byte) : (s.storeTx f).seq = s.seq := rfl
@[simp] theorem State.storeTx_decValid (s : State) (f : List Byte) : (s.storeTx f).decValid = s.decValid := rfl
@[simp] theorem State.storeTx_digValid (s : State) (f : List Byte) : (s.storeTx f).digValid = s.digValid := rfl
@[simp] theorem State.storeTx_crcAcc (s : State) (f : List Byte) : (s.storeTx f).crcAcc = s.crcAcc := rfl
@[simp] theorem State.storeTx_crcPoly (s : State) (f : List Byte) : (s.storeTx f).crcPoly = s.crcPoly := rfl
@[simp] theorem State.storeTx_crcInit (s : State) (f : List Byte) : (s.storeTx f).crcInit = s.crcInit := rfl
@[simp] theorem State.storeTx_txKind (s : State) (f : List Byte) : (s.storeTx f).txKind = s.txKind := rfl
@[simp] theorem State.storeTx_txCrc (s : State) (f : List Byte) : (s.storeTx f).txCrc = rdle16 f (f.length - 2) := rfl
@[simp] theorem State.storeTx_rxMarker (s : State) (f : List Byte) : (s.storeTx f).rxMarker = s.rxMarker := rfl
@[simp] theorem State.storeTx_rxKind (s : State) (f : List Byte) : (s.storeTx f).rxKind = s.rxKind := rfl
@[simp] theorem State.storeTx_rxHdrLen (s : State) (f : List Byte) : (s.storeTx f).rxHdrLen = s.rxHdrLen := rfl
@[simp] theorem State.storeTx_rxCrc (s : State) (f : List Byte) : (s.storeTx f).rxCrc = s.rxCrc := rfl
@[simp] theorem State.storeTx_kindEn (s : State) (f : List Byte) : (s.storeTx f).kindEn = s.kindEn := rfl
@[simp] theorem State.storeTx_payloadEn (s : State) (f : List Byte) : (s.storeTx f).payloadEn = s.payloadEn := rfl
@[simp] theorem State.storeTx_expKind (s : State) (f : List Byte) : (s.storeTx f).expKind = s.expKind := rfl
@[simp] theorem State.storeTx_recType (s : State) (f : List Byte) : (s.storeTx f).recType = s.recType := rfl
@[simp] theorem State.storeTx_recOffset (s : State) (f : List Byte) : (s.storeTx f).recOffset = s.recOffset := rfl
@[simp] theorem State.storeTx_recValue (s : State) (f : List Byte) : (s.storeTx f).recValue = s.recValue := rfl
@[simp] theorem State.storeTx_imgBase (s : State) (f : List Byte) : (s.storeTx f).imgBase = s.imgBase := rfl
@[simp] theorem State.storeTx_winMin (s : State) (f : List Byte) : (s.storeTx f).winMin = s.winMin := rfl
@[simp] theorem State.storeTx_winMax (s : State) (f : List Byte) : (s.storeTx f).winMax = s.winMax := rfl
@[simp] theorem State.storeTx_maxPayload (s : State) (f : List Byte) : (s.storeTx f).maxPayload = s.maxPayload := rfl
@[simp] theorem State.storeTx_chunkSize (s : State) (f : List Byte) : (s.storeTx f).chunkSize = s.chunkSize := rfl
@[simp] theorem State.storeTx_metaMarker (s : State) (f : List Byte) : (s.storeTx f).metaMarker = s.metaMarker := rfl
@[simp] theorem State.storeTx_appMin (s : State) (f : List Byte) : (s.storeTx f).appMin = s.appMin := rfl
@[simp] theorem State.storeTx_appMax (s : State) (f : List Byte) : (s.storeTx f).appMax = s.appMax := rfl
@[simp] theorem State.storeTx_progSent (s : State) (f : List Byte) : (s.storeTx f).progSent = s.progSent := rfl
@[simp] theorem State.storeTx_progTotal (s : State) (f : List Byte) : (s.storeTx f).progTotal = s.progTotal := rfl
@[simp] theorem State.storeTx_cursor (s : State) (f : List Byte) : (s.storeTx f).cursor = s.cursor := rfl
@[simp] theorem State.storeTx_seqIdx (s : State) (f : List Byte) : (s.storeTx f).seqIdx = s.seqIdx := rfl
@[simp] theorem State.storeTx_abortCause (s : State) (f : List Byte) : (s.storeTx f).abortCause = s.abortCause := rfl
@[simp] theorem State.storeTx_pbuf (s : State) (f : List Byte) : (s.storeTx f).pbuf = s.pbuf := rfl
@[simp] theorem State.storeTx_txbuf (s : State) (f : List Byte) : (s.storeTx f).txbuf = f := rfl
@[simp] theorem State.storeTx_rxbuf (s : State) (f : List Byte) : (s.storeTx f).rxbuf = s.rxbuf := rfl
@[simp] theorem State.storeTx_rpbuf (s : State) (f : List Byte) : (s.storeTx f).rpbuf = s.rpbuf := rfl
@[simp] theorem State.storeTx_expbuf (s : State) (f : List Byte) : (s.storeTx f).expbuf = s.expbuf := rfl
@[simp] theorem State.storeTx_rdbuf (s : State) (f : List Byte) : (s.storeTx f).rdbuf = s.rdbuf := rfl
@[simp] theorem State.storeTx_digbuf (s : State) (f : List Byte) : (s.storeTx f).digbuf = s.digbuf := rfl
@[simp] theorem State.storeTx_blk (s : State) (f : List Byte) : (s.storeTx f).blk = s.blk := rfl
@[simp] theorem State.storeTx_seqFrames (s : State) (f : List Byte) : (s.storeTx f).seqFrames = s.seqFrames := rfl
@[simp] theorem State.storeTx_port (s : State) (f : List Byte) : (s.storeTx f).port = s.port := rfl

/-! ### `State.storePacket` -/

@[simp] theorem State.storePacket_cmd (s : State) (p : Packet) : (s.storePacket p).cmd = s.cmd := rfl
@[simp] theorem State.storePacket_err (s : State) (p : Packet) : (s.storePacket p).err = s.err := rfl
@[simp] theorem State.storePacket_seq (s : State) (p : Packet) : (s.storePacket p).seq = s.seq := rfl
@[simp] theorem State.storePacket_decValid (s : State) (p : Packet) : (s.storePacket p).decValid = true := rfl
@[simp] theorem State.storePacket_digValid (s : State) (p : Packet) : (s.storePacket p).digValid = s.digValid := rfl
@[simp] theorem State.storePacket_crcAcc (s : State) (p : Packet) : (s.storePacket p).crcAcc = s.crcAcc := rfl
@[simp] theorem State.storePacket_crcPoly (s : State) (p : Packet) : (s.storePacket p).crcPoly = s.crcPoly := rfl
@[simp] theorem State.storePacket_crcInit (s : State) (p : Packet) : (s.storePacket p).crcInit = s.crcInit := rfl
@[simp] theorem State.storePacket_txKind (s : State) (p : Packet) : (s.storePacket p).txKind = s.txKind := rfl
@[simp] theorem State.storePacket_txCrc (s : State) (p : Packet) : (s.storePacket p).txCrc = s.txCrc := rfl
@[simp] theorem State.storePacket_rxMarker (s : State) (p : Packet) : (s.storePacket p).rxMarker = p.marker := rfl
@[simp] theorem State.storePacket_rxKind (s : State) (p : Packet) : (s.storePacket p).rxKind = p.kind := rfl
@[simp] theorem State.storePacket_rxHdrLen (s : State) (p : Packet) : (s.storePacket p).rxHdrLen = p.len := rfl
@[simp] theorem State.storePacket_rxCrc (s : State) (p : Packet) : (s.storePacket p).rxCrc = p.crcRx := rfl
@[simp] theorem State.storePacket_kindEn (s : State) (p : Packet) : (s.storePacket p).kindEn = s.kindEn := rfl
@[simp] theorem State.storePacket_payloadEn (s : State) (p : Packet) : (s.storePacket p).payloadEn = s.payloadEn := rfl
@[simp] theorem State.storePacket_expKind (s : State) (p : Packet) : (s.storePacket p).expKind = s.expKind := rfl
@[simp] theorem State.storePacket_recType (s : State) (p : Packet) : (s.storePacket p).recType = s.recType := rfl
@[simp] theorem State.storePacket_recOffset (s : State) (p : Packet) : (s.storePacket p).recOffset = s.recOffset := rfl
@[simp] theorem State.storePacket_recValue (s : State) (p : Packet) : (s.storePacket p).recValue = s.recValue := rfl
@[simp] theorem State.storePacket_imgBase (s : State) (p : Packet) : (s.storePacket p).imgBase = s.imgBase := rfl
@[simp] theorem State.storePacket_winMin (s : State) (p : Packet) : (s.storePacket p).winMin = s.winMin := rfl
@[simp] theorem State.storePacket_winMax (s : State) (p : Packet) : (s.storePacket p).winMax = s.winMax := rfl
@[simp] theorem State.storePacket_maxPayload (s : State) (p : Packet) : (s.storePacket p).maxPayload = s.maxPayload := rfl
@[simp] theorem State.storePacket_chunkSize (s : State) (p : Packet) : (s.storePacket p).chunkSize = s.chunkSize := rfl
@[simp] theorem State.storePacket_metaMarker (s : State) (p : Packet) : (s.storePacket p).metaMarker = s.metaMarker := rfl
@[simp] theorem State.storePacket_appMin (s : State) (p : Packet) : (s.storePacket p).appMin = s.appMin := rfl
@[simp] theorem State.storePacket_appMax (s : State) (p : Packet) : (s.storePacket p).appMax = s.appMax := rfl
@[simp] theorem State.storePacket_progSent (s : State) (p : Packet) : (s.storePacket p).progSent = s.progSent := rfl
@[simp] theorem State.storePacket_progTotal (s : State) (p : Packet) : (s.storePacket p).progTotal = s.progTotal := rfl
@[simp] theorem State.storePacket_cursor (s : State) (p : Packet) : (s.storePacket p).cursor = s.cursor := rfl
@[simp] theorem State.storePacket_seqIdx (s : State) (p : Packet) : (s.storePacket p).seqIdx = s.seqIdx := rfl
@[simp] theorem State.storePacket_abortCause (s : State) (p : Packet) : (s.storePacket p).abortCause = s.abortCause := rfl
@[simp] theorem State.storePacket_pbuf (s : State) (p : Packet) : (s.storePacket p).pbuf = s.pbuf := rfl
@[simp] theorem State.storePacket_txbuf (s : State) (p : Packet) : (s.storePacket p).txbuf = s.txbuf := rfl
@[simp] theorem State.storePacket_rxbuf (s : State) (p : Packet) : (s.storePacket p).rxbuf = s.rxbuf := rfl
@[simp] theorem State.storePacket_rpbuf (s : State) (p : Packet) : (s.storePacket p).rpbuf = p.payload := rfl
@[simp] theorem State.storePacket_expbuf (s : State) (p : Packet) : (s.storePacket p).expbuf = s.expbuf := rfl
@[simp] theorem State.storePacket_rdbuf (s : State) (p : Packet) : (s.storePacket p).rdbuf = s.rdbuf := rfl
@[simp] theorem State.storePacket_digbuf (s : State) (p : Packet) : (s.storePacket p).digbuf = s.digbuf := rfl
@[simp] theorem State.storePacket_blk (s : State) (p : Packet) : (s.storePacket p).blk = s.blk := rfl
@[simp] theorem State.storePacket_seqFrames (s : State) (p : Packet) : (s.storePacket p).seqFrames = s.seqFrames := rfl
@[simp] theorem State.storePacket_port (s : State) (p : Packet) : (s.storePacket p).port = s.port := rfl

/-! ### `State.withPending` -/

@[simp] theorem State.withPending_cmd (s : State) (p : List HostAction) : (s.withPending p).cmd = s.cmd := rfl
@[simp] theorem State.withPending_err (s : State) (p : List HostAction) : (s.withPending p).err = s.err := rfl
@[simp] theorem State.withPending_seq (s : State) (p : List HostAction) : (s.withPending p).seq = s.seq := rfl
@[simp] theorem State.withPending_decValid (s : State) (p : List HostAction) : (s.withPending p).decValid = s.decValid := rfl
@[simp] theorem State.withPending_digValid (s : State) (p : List HostAction) : (s.withPending p).digValid = s.digValid := rfl
@[simp] theorem State.withPending_crcAcc (s : State) (p : List HostAction) : (s.withPending p).crcAcc = s.crcAcc := rfl
@[simp] theorem State.withPending_crcPoly (s : State) (p : List HostAction) : (s.withPending p).crcPoly = s.crcPoly := rfl
@[simp] theorem State.withPending_crcInit (s : State) (p : List HostAction) : (s.withPending p).crcInit = s.crcInit := rfl
@[simp] theorem State.withPending_txKind (s : State) (p : List HostAction) : (s.withPending p).txKind = s.txKind := rfl
@[simp] theorem State.withPending_txCrc (s : State) (p : List HostAction) : (s.withPending p).txCrc = s.txCrc := rfl
@[simp] theorem State.withPending_rxMarker (s : State) (p : List HostAction) : (s.withPending p).rxMarker = s.rxMarker := rfl
@[simp] theorem State.withPending_rxKind (s : State) (p : List HostAction) : (s.withPending p).rxKind = s.rxKind := rfl
@[simp] theorem State.withPending_rxHdrLen (s : State) (p : List HostAction) : (s.withPending p).rxHdrLen = s.rxHdrLen := rfl
@[simp] theorem State.withPending_rxCrc (s : State) (p : List HostAction) : (s.withPending p).rxCrc = s.rxCrc := rfl
@[simp] theorem State.withPending_kindEn (s : State) (p : List HostAction) : (s.withPending p).kindEn = s.kindEn := rfl
@[simp] theorem State.withPending_payloadEn (s : State) (p : List HostAction) : (s.withPending p).payloadEn = s.payloadEn := rfl
@[simp] theorem State.withPending_expKind (s : State) (p : List HostAction) : (s.withPending p).expKind = s.expKind := rfl
@[simp] theorem State.withPending_recType (s : State) (p : List HostAction) : (s.withPending p).recType = s.recType := rfl
@[simp] theorem State.withPending_recOffset (s : State) (p : List HostAction) : (s.withPending p).recOffset = s.recOffset := rfl
@[simp] theorem State.withPending_recValue (s : State) (p : List HostAction) : (s.withPending p).recValue = s.recValue := rfl
@[simp] theorem State.withPending_imgBase (s : State) (p : List HostAction) : (s.withPending p).imgBase = s.imgBase := rfl
@[simp] theorem State.withPending_winMin (s : State) (p : List HostAction) : (s.withPending p).winMin = s.winMin := rfl
@[simp] theorem State.withPending_winMax (s : State) (p : List HostAction) : (s.withPending p).winMax = s.winMax := rfl
@[simp] theorem State.withPending_maxPayload (s : State) (p : List HostAction) : (s.withPending p).maxPayload = s.maxPayload := rfl
@[simp] theorem State.withPending_chunkSize (s : State) (p : List HostAction) : (s.withPending p).chunkSize = s.chunkSize := rfl
@[simp] theorem State.withPending_metaMarker (s : State) (p : List HostAction) : (s.withPending p).metaMarker = s.metaMarker := rfl
@[simp] theorem State.withPending_appMin (s : State) (p : List HostAction) : (s.withPending p).appMin = s.appMin := rfl
@[simp] theorem State.withPending_appMax (s : State) (p : List HostAction) : (s.withPending p).appMax = s.appMax := rfl
@[simp] theorem State.withPending_progSent (s : State) (p : List HostAction) : (s.withPending p).progSent = s.progSent := rfl
@[simp] theorem State.withPending_progTotal (s : State) (p : List HostAction) : (s.withPending p).progTotal = s.progTotal := rfl
@[simp] theorem State.withPending_cursor (s : State) (p : List HostAction) : (s.withPending p).cursor = s.cursor := rfl
@[simp] theorem State.withPending_seqIdx (s : State) (p : List HostAction) : (s.withPending p).seqIdx = s.seqIdx := rfl
@[simp] theorem State.withPending_abortCause (s : State) (p : List HostAction) : (s.withPending p).abortCause = s.abortCause := rfl
@[simp] theorem State.withPending_pbuf (s : State) (p : List HostAction) : (s.withPending p).pbuf = s.pbuf := rfl
@[simp] theorem State.withPending_txbuf (s : State) (p : List HostAction) : (s.withPending p).txbuf = s.txbuf := rfl
@[simp] theorem State.withPending_rxbuf (s : State) (p : List HostAction) : (s.withPending p).rxbuf = s.rxbuf := rfl
@[simp] theorem State.withPending_rpbuf (s : State) (p : List HostAction) : (s.withPending p).rpbuf = s.rpbuf := rfl
@[simp] theorem State.withPending_expbuf (s : State) (p : List HostAction) : (s.withPending p).expbuf = s.expbuf := rfl
@[simp] theorem State.withPending_rdbuf (s : State) (p : List HostAction) : (s.withPending p).rdbuf = s.rdbuf := rfl
@[simp] theorem State.withPending_digbuf (s : State) (p : List HostAction) : (s.withPending p).digbuf = s.digbuf := rfl
@[simp] theorem State.withPending_blk (s : State) (p : List HostAction) : (s.withPending p).blk = s.blk := rfl
@[simp] theorem State.withPending_seqFrames (s : State) (p : List HostAction) : (s.withPending p).seqFrames = s.seqFrames := rfl
@[simp] theorem State.withPending_port (s : State) (p : List HostAction) : (s.withPending p).port = { s.port with pending := p } := rfl

/-! ### `State.withReply` -/

@[simp] theorem State.withReply_cmd (s : State) (r : HostReply) : (s.withReply r).cmd = s.cmd := rfl
@[simp] theorem State.withReply_err (s : State) (r : HostReply) : (s.withReply r).err = s.err := rfl
@[simp] theorem State.withReply_seq (s : State) (r : HostReply) : (s.withReply r).seq = s.seq := rfl
@[simp] theorem State.withReply_decValid (s : State) (r : HostReply) : (s.withReply r).decValid = s.decValid := rfl
@[simp] theorem State.withReply_digValid (s : State) (r : HostReply) : (s.withReply r).digValid = s.digValid := rfl
@[simp] theorem State.withReply_crcAcc (s : State) (r : HostReply) : (s.withReply r).crcAcc = s.crcAcc := rfl
@[simp] theorem State.withReply_crcPoly (s : State) (r : HostReply) : (s.withReply r).crcPoly = s.crcPoly := rfl
@[simp] theorem State.withReply_crcInit (s : State) (r : HostReply) : (s.withReply r).crcInit = s.crcInit := rfl
@[simp] theorem State.withReply_txKind (s : State) (r : HostReply) : (s.withReply r).txKind = s.txKind := rfl
@[simp] theorem State.withReply_txCrc (s : State) (r : HostReply) : (s.withReply r).txCrc = s.txCrc := rfl
@[simp] theorem State.withReply_rxMarker (s : State) (r : HostReply) : (s.withReply r).rxMarker = s.rxMarker := rfl
@[simp] theorem State.withReply_rxKind (s : State) (r : HostReply) : (s.withReply r).rxKind = s.rxKind := rfl
@[simp] theorem State.withReply_rxHdrLen (s : State) (r : HostReply) : (s.withReply r).rxHdrLen = s.rxHdrLen := rfl
@[simp] theorem State.withReply_rxCrc (s : State) (r : HostReply) : (s.withReply r).rxCrc = s.rxCrc := rfl
@[simp] theorem State.withReply_kindEn (s : State) (r : HostReply) : (s.withReply r).kindEn = s.kindEn := rfl
@[simp] theorem State.withReply_payloadEn (s : State) (r : HostReply) : (s.withReply r).payloadEn = s.payloadEn := rfl
@[simp] theorem State.withReply_expKind (s : State) (r : HostReply) : (s.withReply r).expKind = s.expKind := rfl
@[simp] theorem State.withReply_recType (s : State) (r : HostReply) : (s.withReply r).recType = s.recType := rfl
@[simp] theorem State.withReply_recOffset (s : State) (r : HostReply) : (s.withReply r).recOffset = s.recOffset := rfl
@[simp] theorem State.withReply_recValue (s : State) (r : HostReply) : (s.withReply r).recValue = s.recValue := rfl
@[simp] theorem State.withReply_imgBase (s : State) (r : HostReply) : (s.withReply r).imgBase = s.imgBase := rfl
@[simp] theorem State.withReply_winMin (s : State) (r : HostReply) : (s.withReply r).winMin = s.winMin := rfl
@[simp] theorem State.withReply_winMax (s : State) (r : HostReply) : (s.withReply r).winMax = s.winMax := rfl
@[simp] theorem State.withReply_maxPayload (s : State) (r : HostReply) : (s.withReply r).maxPayload = s.maxPayload := rfl
@[simp] theorem State.withReply_chunkSize (s : State) (r : HostReply) : (s.withReply r).chunkSize = s.chunkSize := rfl
@[simp] theorem State.withReply_metaMarker (s : State) (r : HostReply) : (s.withReply r).metaMarker = s.metaMarker := rfl
@[simp] theorem State.withReply_appMin (s : State) (r : HostReply) : (s.withReply r).appMin = s.appMin := rfl
@[simp] theorem State.withReply_appMax (s : State) (r : HostReply) : (s.withReply r).appMax = s.appMax := rfl
@[simp] theorem State.withReply_progSent (s : State) (r : HostReply) : (s.withReply r).progSent = s.progSent := rfl
@[simp] theorem State.withReply_progTotal (s : State) (r : HostReply) : (s.withReply r).progTotal = s.progTotal := rfl
@[simp] theorem State.withReply_cursor (s : State) (r : HostReply) : (s.withReply r).cursor = s.cursor := rfl
@[simp] theorem State.withReply_seqIdx (s : State) (r : HostReply) : (s.withReply r).seqIdx = s.seqIdx := rfl
@[simp] theorem State.withReply_abortCause (s : State) (r : HostReply) : (s.withReply r).abortCause = s.abortCause := rfl
@[simp] theorem State.withReply_pbuf (s : State) (r : HostReply) : (s.withReply r).pbuf = s.pbuf := rfl
@[simp] theorem State.withReply_txbuf (s : State) (r : HostReply) : (s.withReply r).txbuf = s.txbuf := rfl
@[simp] theorem State.withReply_rxbuf (s : State) (r : HostReply) : (s.withReply r).rxbuf = s.rxbuf := rfl
@[simp] theorem State.withReply_rpbuf (s : State) (r : HostReply) : (s.withReply r).rpbuf = s.rpbuf := rfl
@[simp] theorem State.withReply_expbuf (s : State) (r : HostReply) : (s.withReply r).expbuf = s.expbuf := rfl
@[simp] theorem State.withReply_rdbuf (s : State) (r : HostReply) : (s.withReply r).rdbuf = s.rdbuf := rfl
@[simp] theorem State.withReply_digbuf (s : State) (r : HostReply) : (s.withReply r).digbuf = s.digbuf := rfl
@[simp] theorem State.withReply_blk (s : State) (r : HostReply) : (s.withReply r).blk = s.blk := rfl
@[simp] theorem State.withReply_seqFrames (s : State) (r : HostReply) : (s.withReply r).seqFrames = s.seqFrames := rfl
@[simp] theorem State.withReply_port (s : State) (r : HostReply) : (s.withReply r).port = { s.port with reply := r } := rfl

/-! ### `State.startSequence` -/

@[simp] theorem State.startSequence_cmd (s : State) : (s.startSequence).cmd = s.cmd := rfl
@[simp] theorem State.startSequence_err (s : State) : (s.startSequence).err = s.err := rfl
@[simp] theorem State.startSequence_seq (s : State) : (s.startSequence).seq = .ready := rfl
@[simp] theorem State.startSequence_decValid (s : State) : (s.startSequence).decValid = s.decValid := rfl
@[simp] theorem State.startSequence_digValid (s : State) : (s.startSequence).digValid = s.digValid := rfl
@[simp] theorem State.startSequence_crcAcc (s : State) : (s.startSequence).crcAcc = s.crcAcc := rfl
@[simp] theorem State.startSequence_crcPoly (s : State) : (s.startSequence).crcPoly = s.crcPoly := rfl
@[simp] theorem State.startSequence_crcInit (s : State) : (s.startSequence).crcInit = s.crcInit := rfl
@[simp] theorem State.startSequence_txKind (s : State) : (s.startSequence).txKind = s.txKind := rfl
@[simp] theorem State.startSequence_txCrc (s : State) : (s.startSequence).txCrc = s.txCrc := rfl
@[simp] theorem State.startSequence_rxMarker (s : State) : (s.startSequence).rxMarker = s.rxMarker := rfl
@[simp] theorem State.startSequence_rxKind (s : State) : (s.startSequence).rxKind = s.rxKind := rfl
@[simp] theorem State.startSequence_rxHdrLen (s : State) : (s.startSequence).rxHdrLen = s.rxHdrLen := rfl
@[simp] theorem State.startSequence_rxCrc (s : State) : (s.startSequence).rxCrc = s.rxCrc := rfl
@[simp] theorem State.startSequence_kindEn (s : State) : (s.startSequence).kindEn = s.kindEn := rfl
@[simp] theorem State.startSequence_payloadEn (s : State) : (s.startSequence).payloadEn = s.payloadEn := rfl
@[simp] theorem State.startSequence_expKind (s : State) : (s.startSequence).expKind = s.expKind := rfl
@[simp] theorem State.startSequence_recType (s : State) : (s.startSequence).recType = s.recType := rfl
@[simp] theorem State.startSequence_recOffset (s : State) : (s.startSequence).recOffset = s.recOffset := rfl
@[simp] theorem State.startSequence_recValue (s : State) : (s.startSequence).recValue = s.recValue := rfl
@[simp] theorem State.startSequence_imgBase (s : State) : (s.startSequence).imgBase = s.imgBase := rfl
@[simp] theorem State.startSequence_winMin (s : State) : (s.startSequence).winMin = s.winMin := rfl
@[simp] theorem State.startSequence_winMax (s : State) : (s.startSequence).winMax = s.winMax := rfl
@[simp] theorem State.startSequence_maxPayload (s : State) : (s.startSequence).maxPayload = s.maxPayload := rfl
@[simp] theorem State.startSequence_chunkSize (s : State) : (s.startSequence).chunkSize = s.chunkSize := rfl
@[simp] theorem State.startSequence_metaMarker (s : State) : (s.startSequence).metaMarker = s.metaMarker := rfl
@[simp] theorem State.startSequence_appMin (s : State) : (s.startSequence).appMin = BitVec.ofNat 32 (deriveWindow s.blk).1 := rfl
@[simp] theorem State.startSequence_appMax (s : State) : (s.startSequence).appMax = BitVec.ofNat 32 (deriveWindow s.blk).2 := rfl
@[simp] theorem State.startSequence_progSent (s : State) : (s.startSequence).progSent = 0#32 := rfl
@[simp] theorem State.startSequence_progTotal (s : State) : (s.startSequence).progTotal = BitVec.ofNat 32 (totalBytes s.blk) := rfl
@[simp] theorem State.startSequence_cursor (s : State) : (s.startSequence).cursor = 0#32 := rfl
@[simp] theorem State.startSequence_seqIdx (s : State) : (s.startSequence).seqIdx = 0 := rfl
@[simp] theorem State.startSequence_abortCause (s : State) : (s.startSequence).abortCause = s.abortCause := rfl
@[simp] theorem State.startSequence_pbuf (s : State) : (s.startSequence).pbuf = s.pbuf := rfl
@[simp] theorem State.startSequence_txbuf (s : State) : (s.startSequence).txbuf = s.txbuf := rfl
@[simp] theorem State.startSequence_rxbuf (s : State) : (s.startSequence).rxbuf = s.rxbuf := rfl
@[simp] theorem State.startSequence_rpbuf (s : State) : (s.startSequence).rpbuf = s.rpbuf := rfl
@[simp] theorem State.startSequence_expbuf (s : State) : (s.startSequence).expbuf = s.expbuf := rfl
@[simp] theorem State.startSequence_rdbuf (s : State) : (s.startSequence).rdbuf = s.rdbuf := rfl
@[simp] theorem State.startSequence_digbuf (s : State) : (s.startSequence).digbuf = s.digbuf := rfl
@[simp] theorem State.startSequence_blk (s : State) : (s.startSequence).blk = s.blk := rfl
@[simp] theorem State.startSequence_seqFrames (s : State) : (s.startSequence).seqFrames = plan s.blk s.maxPayload.toNat s.chunkSize.toNat s.metaMarker := rfl
@[simp] theorem State.startSequence_port (s : State) : (s.startSequence).port = s.port := rfl

/-! ### `State.acknowledge` -/

@[simp] theorem State.acknowledge_cmd (s : State) (e : SeqEntry) : (s.acknowledge e).cmd = s.cmd := rfl
@[simp] theorem State.acknowledge_err (s : State) (e : SeqEntry) : (s.acknowledge e).err = s.err := rfl
@[simp] theorem State.acknowledge_seq (s : State) (e : SeqEntry) : (s.acknowledge e).seq = if s.seqIdx + 1 = s.seqFrames.length then .done else .ready := rfl
@[simp] theorem State.acknowledge_decValid (s : State) (e : SeqEntry) : (s.acknowledge e).decValid = s.decValid := rfl
@[simp] theorem State.acknowledge_digValid (s : State) (e : SeqEntry) : (s.acknowledge e).digValid = s.digValid := rfl
@[simp] theorem State.acknowledge_crcAcc (s : State) (e : SeqEntry) : (s.acknowledge e).crcAcc = s.crcAcc := rfl
@[simp] theorem State.acknowledge_crcPoly (s : State) (e : SeqEntry) : (s.acknowledge e).crcPoly = s.crcPoly := rfl
@[simp] theorem State.acknowledge_crcInit (s : State) (e : SeqEntry) : (s.acknowledge e).crcInit = s.crcInit := rfl
@[simp] theorem State.acknowledge_txKind (s : State) (e : SeqEntry) : (s.acknowledge e).txKind = s.txKind := rfl
@[simp] theorem State.acknowledge_txCrc (s : State) (e : SeqEntry) : (s.acknowledge e).txCrc = s.txCrc := rfl
@[simp] theorem State.acknowledge_rxMarker (s : State) (e : SeqEntry) : (s.acknowledge e).rxMarker = s.rxMarker := rfl
@[simp] theorem State.acknowledge_rxKind (s : State) (e : SeqEntry) : (s.acknowledge e).rxKind = s.rxKind := rfl
@[simp] theorem State.acknowledge_rxHdrLen (s : State) (e : SeqEntry) : (s.acknowledge e).rxHdrLen = s.rxHdrLen := rfl
@[simp] theorem State.acknowledge_rxCrc (s : State) (e : SeqEntry) : (s.acknowledge e).rxCrc = s.rxCrc := rfl
@[simp] theorem State.acknowledge_kindEn (s : State) (e : SeqEntry) : (s.acknowledge e).kindEn = s.kindEn := rfl
@[simp] theorem State.acknowledge_payloadEn (s : State) (e : SeqEntry) : (s.acknowledge e).payloadEn = s.payloadEn := rfl
@[simp] theorem State.acknowledge_expKind (s : State) (e : SeqEntry) : (s.acknowledge e).expKind = s.expKind := rfl
@[simp] theorem State.acknowledge_recType (s : State) (e : SeqEntry) : (s.acknowledge e).recType = s.recType := rfl
@[simp] theorem State.acknowledge_recOffset (s : State) (e : SeqEntry) : (s.acknowledge e).recOffset = s.recOffset := rfl
@[simp] theorem State.acknowledge_recValue (s : State) (e : SeqEntry) : (s.acknowledge e).recValue = s.recValue := rfl
@[simp] theorem State.acknowledge_imgBase (s : State) (e : SeqEntry) : (s.acknowledge e).imgBase = s.imgBase := rfl
@[simp] theorem State.acknowledge_winMin (s : State) (e : SeqEntry) : (s.acknowledge e).winMin = s.winMin := rfl
@[simp] theorem State.acknowledge_winMax (s : State) (e : SeqEntry) : (s.acknowledge e).winMax = s.winMax := rfl
@[simp] theorem State.acknowledge_maxPayload (s : State) (e : SeqEntry) : (s.acknowledge e).maxPayload = s.maxPayload := rfl
@[simp] theorem State.acknowledge_chunkSize (s : State) (e : SeqEntry) : (s.acknowledge e).chunkSize = s.chunkSize := rfl
@[simp] theorem State.acknowledge_metaMarker (s : State) (e : SeqEntry) : (s.acknowledge e).metaMarker = s.metaMarker := rfl
@[simp] theorem State.acknowledge_appMin (s : State) (e : SeqEntry) : (s.acknowledge e).appMin = s.appMin := rfl
@[simp] theorem State.acknowledge_appMax (s : State) (e : SeqEntry) : (s.acknowledge e).appMax = s.appMax := rfl
@[simp] theorem State.acknowledge_progSent (s : State) (e : SeqEntry) : (s.acknowledge e).progSent = if e.tag = .firmware then s.progSent + BitVec.ofNat 32 e.data.length else s.progSent := rfl
@[simp] theorem State.acknowledge_progTotal (s : State) (e : SeqEntry) : (s.acknowledge e).progTotal = s.progTotal := rfl
@[simp] theorem State.acknowledge_cursor (s : State) (e : SeqEntry) : (s.acknowledge e).cursor = if e.tag = .firmware then e.addr + BitVec.ofNat 32 e.data.length else s.cursor := rfl
@[simp] theorem State.acknowledge_seqIdx (s : State) (e : SeqEntry) : (s.acknowledge e).seqIdx = s.seqIdx + 1 := rfl
@[simp] theorem State.acknowledge_abortCause (s : State) (e : SeqEntry) : (s.acknowledge e).abortCause = s.abortCause := rfl
@[simp] theorem State.acknowledge_pbuf (s : State) (e : SeqEntry) : (s.acknowledge e).pbuf = s.pbuf := rfl
@[simp] theorem State.acknowledge_txbuf (s : State) (e : SeqEntry) : (s.acknowledge e).txbuf = s.txbuf := rfl
@[simp] theorem State.acknowledge_rxbuf (s : State) (e : SeqEntry) : (s.acknowledge e).rxbuf = s.rxbuf := rfl
@[simp] theorem State.acknowledge_rpbuf (s : State) (e : SeqEntry) : (s.acknowledge e).rpbuf = s.rpbuf := rfl
@[simp] theorem State.acknowledge_expbuf (s : State) (e : SeqEntry) : (s.acknowledge e).expbuf = s.expbuf := rfl
@[simp] theorem State.acknowledge_rdbuf (s : State) (e : SeqEntry) : (s.acknowledge e).rdbuf = s.rdbuf := rfl
@[simp] theorem State.acknowledge_digbuf (s : State) (e : SeqEntry) : (s.acknowledge e).digbuf = s.digbuf := rfl
@[simp] theorem State.acknowledge_blk (s : State) (e : SeqEntry) : (s.acknowledge e).blk = s.blk := rfl
@[simp] theorem State.acknowledge_seqFrames (s : State) (e : SeqEntry) : (s.acknowledge e).seqFrames = s.seqFrames := rfl
@[simp] theorem State.acknowledge_port (s : State) (e : SeqEntry) : (s.acknowledge e).port = s.port := rfl

/-! ### `State.setBuf` -/

@[simp] theorem State.setBuf_cmd (s : State) (b : Buffer) (l : List Byte) : (s.setBuf b l).cmd = s.cmd := by
  cases b <;> rfl
@[simp] theorem State.setBuf_err (s : State) (b : Buffer) (l : List Byte) : (s.setBuf b l).err = s.err := by
  cases b <;> rfl
@[simp] theorem State.setBuf_seq (s : State) (b : Buffer) (l : List Byte) : (s.setBuf b l).seq = s.seq := by
  cases b <;> rfl
@[simp] theorem State.setBuf_decValid (s : State) (b : Buffer) (l : List Byte) : (s.setBuf b l).decValid = s.decValid := by
  cases b <;> rfl
@[simp] theorem State.setBuf_digValid (s : State) (b : Buffer) (l : List Byte) : (s.setBuf b l).digValid = s.digValid := by
  cases b <;> rfl
@[simp] theorem State.setBuf_crcAcc (s : State) (b : Buffer) (l : List Byte) : (s.setBuf b l).crcAcc = s.crcAcc := by
  cases b <;> rfl
@[simp] theorem State.setBuf_crcPoly (s : State) (b : Buffer) (l : List Byte) : (s.setBuf b l).crcPoly = s.crcPoly := by
  cases b <;> rfl
@[simp] theorem State.setBuf_crcInit (s : State) (b : Buffer) (l : List Byte) : (s.setBuf b l).crcInit = s.crcInit := by
  cases b <;> rfl
@[simp] theorem State.setBuf_txKind (s : State) (b : Buffer) (l : List Byte) : (s.setBuf b l).txKind = s.txKind := by
  cases b <;> rfl
@[simp] theorem State.setBuf_txCrc (s : State) (b : Buffer) (l : List Byte) : (s.setBuf b l).txCrc = s.txCrc := by
  cases b <;> rfl
@[simp] theorem State.setBuf_rxMarker (s : State) (b : Buffer) (l : List Byte) : (s.setBuf b l).rxMarker = s.rxMarker := by
  cases b <;> rfl
@[simp] theorem State.setBuf_rxKind (s : State) (b : Buffer) (l : List Byte) : (s.setBuf b l).rxKind = s.rxKind := by
  cases b <;> rfl
@[simp] theorem State.setBuf_rxHdrLen (s : State) (b : Buffer) (l : List Byte) : (s.setBuf b l).rxHdrLen = s.rxHdrLen := by
  cases b <;> rfl
@[simp] theorem State.setBuf_rxCrc (s : State) (b : Buffer) (l : List Byte) : (s.setBuf b l).rxCrc = s.rxCrc := by
  cases b <;> rfl
@[simp] theorem State.setBuf_kindEn (s : State) (b : Buffer) (l : List Byte) : (s.setBuf b l).kindEn = s.kindEn := by
  cases b <;> rfl
@[simp] theorem State.setBuf_payloadEn (s : State) (b : Buffer) (l : List Byte) : (s.setBuf b l).payloadEn = s.payloadEn := by
  cases b <;> rfl
@[simp] theorem State.setBuf_expKind (s : State) (b : Buffer) (l : List Byte) : (s.setBuf b l).expKind = s.expKind := by
  cases b <;> rfl
@[simp] theorem State.setBuf_recType (s : State) (b : Buffer) (l : List Byte) : (s.setBuf b l).recType = s.recType := by
  cases b <;> rfl
@[simp] theorem State.setBuf_recOffset (s : State) (b : Buffer) (l : List Byte) : (s.setBuf b l).recOffset = s.recOffset := by
  cases b <;> rfl
@[simp] theorem State.setBuf_recValue (s : State) (b : Buffer) (l : List Byte) : (s.setBuf b l).recValue = s.recValue := by
  cases b <;> rfl
@[simp] theorem State.setBuf_imgBase (s : State) (b : Buffer) (l : List Byte) : (s.setBuf b l).imgBase = s.imgBase := by
  cases b <;> rfl
@[simp] theorem State.setBuf_winMin (s : State) (b : Buffer) (l : List Byte) : (s.setBuf b l).winMin = s.winMin := by
  cases b <;> rfl
@[simp] theorem State.setBuf_winMax (s : State) (b : Buffer) (l : List Byte) : (s.setBuf b l).winMax = s.winMax := by
  cases b <;> rfl
@[simp] theorem State.setBuf_maxPayload (s : State) (b : Buffer) (l : List Byte) : (s.setBuf b l).maxPayload = s.maxPayload := by
  cases b <;> rfl
@[simp] theorem State.setBuf_chunkSize (s : State) (b : Buffer) (l : List Byte) : (s.setBuf b l).chunkSize = s.chunkSize := by
  cases b <;> rfl
@[simp] theorem State.setBuf_metaMarker (s : State) (b : Buffer) (l : List Byte) : (s.setBuf b l).metaMarker = s.metaMarker := by
  cases b <;> rfl
@[simp] theorem State.setBuf_appMin (s : State) (b : Buffer) (l : List Byte) : (s.setBuf b l).appMin = s.appMin := by
  cases b <;> rfl
@[simp] theorem State.setBuf_appMax (s : State) (b : Buffer) (l : List Byte) : (s.setBuf b l).appMax = s.appMax := by
  cases b <;> rfl
@[simp] theorem State.setBuf_progSent (s : State) (b : Buffer) (l : List Byte) : (s.setBuf b l).progSent = s.progSent := by
  cases b <;> rfl
@[simp] theorem State.setBuf_progTotal (s : State) (b : Buffer) (l : List Byte) : (s.setBuf b l).progTotal = s.progTotal := by
  cases b <;> rfl
@[simp] theorem State.setBuf_cursor (s : State) (b : Buffer) (l : List Byte) : (s.setBuf b l).cursor = s.cursor := by
  cases b <;> rfl
@[simp] theorem State.setBuf_seqIdx (s : State) (b : Buffer) (l : List Byte) : (s.setBuf b l).seqIdx = s.seqIdx := by
  cases b <;> rfl
@[simp] theorem State.setBuf_abortCause (s : State) (b : Buffer) (l : List Byte) : (s.setBuf b l).abortCause = s.abortCause := by
  cases b <;> rfl
@[simp] theorem State.setBuf_blk (s : State) (b : Buffer) (l : List Byte) : (s.setBuf b l).blk = s.blk := by
  cases b <;> rfl
@[simp] theorem State.setBuf_seqFrames (s : State) (b : Buffer) (l : List Byte) : (s.setBuf b l).seqFrames = s.seqFrames := by
  cases b <;> rfl
@[simp] theorem State.setBuf_port (s : State) (b : Buffer) (l : List Byte) : (s.setBuf b l).port = s.port := by
  cases b <;> rfl

@[simp] theorem State.buf_setBuf_self (s : State) (b : Buffer) (l : List Byte) : (s.setBuf b l).buf b = l := by
  cases b <;> rfl

theorem State.buf_setBuf_other (s : State) (b c : Buffer) (l : List Byte) (h : c ≠ b) :
    (s.setBuf b l).buf c = s.buf c := by
  cases b <;> cases c <;> first | rfl | exact absurd rfl h

@[simp] theorem State.packet_storePacket (s : State) (p : Packet) : (s.storePacket p).packet = p := rfl

/-! ### `writeReg`: what no host write changes -/

@[simp] theorem writeReg_err (r : Reg) (v : Word) (s : State) : (writeReg r v s).err = s.err := by cases r <;> rfl
@[simp] theorem writeReg_seq (r : Reg) (v : Word) (s : State) : (writeReg r v s).seq = s.seq := by cases r <;> rfl
@[simp] theorem writeReg_decValid (r : Reg) (v : Word) (s : State) : (writeReg r v s).decValid = s.decValid := by cases r <;> rfl
@[simp] theorem writeReg_digValid (r : Reg) (v : Word) (s : State) : (writeReg r v s).digValid = s.digValid := by cases r <;> rfl
@[simp] theorem writeReg_txCrc (r : Reg) (v : Word) (s : State) : (writeReg r v s).txCrc = s.txCrc := by cases r <;> rfl
@[simp] theorem writeReg_rxMarker (r : Reg) (v : Word) (s : State) : (writeReg r v s).rxMarker = s.rxMarker := by cases r <;> rfl
@[simp] theorem writeReg_rxKind (r : Reg) (v : Word) (s : State) : (writeReg r v s).rxKind = s.rxKind := by cases r <;> rfl
@[simp] theorem writeReg_rxHdrLen (r : Reg) (v : Word) (s : State) : (writeReg r v s).rxHdrLen = s.rxHdrLen := by cases r <;> rfl
@[simp] theorem writeReg_rxCrc (r : Reg) (v : Word) (s : State) : (writeReg r v s).rxCrc = s.rxCrc := by cases r <;> rfl
@[simp] theorem writeReg_imgBase (r : Reg) (v : Word) (s : State) : (writeReg r v s).imgBase = s.imgBase := by cases r <;> rfl
@[simp] theorem writeReg_appMin (r : Reg) (v : Word) (s : State) : (writeReg r v s).appMin = s.appMin := by cases r <;> rfl
@[simp] theorem writeReg_appMax (r : Reg) (v : Word) (s : State) : (writeReg r v s).appMax = s.appMax := by cases r <;> rfl
@[simp] theorem writeReg_progSent (r : Reg) (v : Word) (s : State) : (writeReg r v s).progSent = s.progSent := by cases r <;> rfl
@[simp] theorem writeReg_progTotal (r : Reg) (v : Word) (s : State) : (writeReg r v s).progTotal = s.progTotal := by cases r <;> rfl
@[simp] theorem writeReg_cursor (r : Reg) (v : Word) (s : State) : (writeReg r v s).cursor = s.cursor := by cases r <;> rfl
@[simp] theorem writeReg_seqIdx (r : Reg) (v : Word) (s : State) : (writeReg r v s).seqIdx = s.seqIdx := by cases r <;> rfl
@[simp] theorem writeReg_abortCause (r : Reg) (v : Word) (s : State) : (writeReg r v s).abortCause = s.abortCause := by cases r <;> rfl
@[simp] theorem writeReg_pbuf (r : Reg) (v : Word) (s : State) : (writeReg r v s).pbuf = s.pbuf := by cases r <;> rfl
@[simp] theorem writeReg_txbuf (r : Reg) (v : Word) (s : State) : (writeReg r v s).txbuf = s.txbuf := by cases r <;> rfl
@[simp] theorem writeReg_rxbuf (r : Reg) (v : Word) (s : State) : (writeReg r v s).rxbuf = s.rxbuf := by cases r <;> rfl
@[simp] theorem writeReg_rpbuf (r : Reg) (v : Word) (s : State) : (writeReg r v s).rpbuf = s.rpbuf := by cases r <;> rfl
@[simp] theorem writeReg_expbuf (r : Reg) (v : Word) (s : State) : (writeReg r v s).expbuf = s.expbuf := by cases r <;> rfl
@[simp] theorem writeReg_rdbuf (r : Reg) (v : Word) (s : State) : (writeReg r v s).rdbuf = s.rdbuf := by cases r <;> rfl
@[simp] theorem writeReg_digbuf (r : Reg) (v : Word) (s : State) : (writeReg r v s).digbuf = s.digbuf := by cases r <;> rfl
@[simp] theorem writeReg_blk (r : Reg) (v : Word) (s : State) : (writeReg r v s).blk = s.blk := by cases r <;> rfl
@[simp] theorem writeReg_seqFrames (r : Reg) (v : Word) (s : State) : (writeReg r v s).seqFrames = s.seqFrames := by cases r <;> rfl
@[simp] theorem writeReg_port (r : Reg) (v : Word) (s : State) : (writeReg r v s).port = s.port := by cases r <;> rfl

end Sys2Proof.Machine
end

