-- ==== Sys2Proof/Laws/Ops.lean ====
section
/-! SUPPORT. What the shared operations do, said once: byte orders, buffer reads and writes, how a command ends, and that every operation keeps the memory within its capacities. -/

namespace Sys2Proof.Machine

/-! ### Byte orders -/

@[simp] theorem le16_length (v : Half) : (le16 v).length = 2 := rfl

@[simp] theorem le32_length (v : Word) : (le32 v).length = 4 := rfl

@[simp] theorem be32_length (v : Word) : (be32 v).length = 4 := rfl

/-- `be32` as numbers, most significant byte first. -/
theorem be32_eq_ofNat (v : Word) : be32 v =
    [BitVec.ofNat 8 (v.toNat / 16777216), BitVec.ofNat 8 (v.toNat / 65536), BitVec.ofNat 8 (v.toNat / 256),
      BitVec.ofNat 8 v.toNat] := by
  simp only [be32, List.cons.injEq, and_true]
  refine ⟨?_, ?_, ?_, ?_⟩ <;> apply BitVec.eq_of_toNat_eq <;> simp [Nat.shiftRight_eq_div_pow]

/-- `le32` holds the bytes of `be32`, least significant first. -/
theorem le32_eq_reverse_be32 (v : Word) : le32 v = (be32 v).reverse := rfl

/-- The two bytes of `le16`, put together high byte first, are the value. -/
theorem le16_join (v : Half) : (v.extractLsb' 8 8 ++ v.extractLsb' 0 8 : Half) = v := by
  apply BitVec.eq_of_getLsbD_eq
  intro i hi
  simp only [BitVec.getLsbD_append, BitVec.getLsbD_extractLsb']
  by_cases h : i < 8
  · simp [h]
  · have : i - 8 < 8 := by omega
    simp [h, this, show 8 + (i - 8) = i by omega]

/-- A 16-bit read at the place where `le16 v` stands gives `v`. -/
theorem rdle16_at (pre post : List Byte) (v : Half) : rdle16 (pre ++ le16 v ++ post) pre.length = v := by
  have h0 : byteAt (pre ++ le16 v ++ post) pre.length = v.extractLsb' 0 8 := by simp [byteAt, le16]
  have h1 : byteAt (pre ++ le16 v ++ post) (pre.length + 1) = v.extractLsb' 8 8 := by
    simp [byteAt, le16]
  rw [rdle16, h0, h1, le16_join]

/-- A 16-bit read at the place where two bytes stand gives the second above the first. -/
theorem rdle16_pair (pre post : List Byte) (b0 b1 : Byte) : rdle16 (pre ++ [b0, b1] ++ post) pre.length = b1 ++ b0 := by
  have h0 : byteAt (pre ++ [b0, b1] ++ post) pre.length = b0 := by simp [byteAt]
  have h1 : byteAt (pre ++ [b0, b1] ++ post) (pre.length + 1) = b1 := by simp [byteAt]
  rw [rdle16, h0, h1]

/-! ### Buffers as byte sequences -/

theorem memRead_length (buf : List Byte) (off n : Nat) (h : off + n ≤ buf.length) : (memRead buf off n).length = n := by
  simp [memRead]; omega

/-- A read at a place where bytes stand gives those bytes. -/
theorem memRead_at (pre mid post : List Byte) : memRead (pre ++ mid ++ post) pre.length mid.length = mid := by
  simp [memRead]

theorem memRead_getElem? (buf : List Byte) (off n j : Nat) (h : j < n) : (memRead buf off n)[j]? = buf[off + j]? := by
  simp [memRead, h]

theorem memWrite_length (buf v : List Byte) (off : Nat) (h : off + v.length ≤ buf.length) :
    (memWrite buf off v).length = buf.length := by
  simp [memWrite]; omega

/-- A write changes the bytes it covers to the bytes written and no other. -/
theorem memWrite_getElem? (buf v : List Byte) (off j : Nat) (h : off + v.length ≤ buf.length) :
    (memWrite buf off v)[j]? = if off ≤ j ∧ j < off + v.length then v[j - off]? else buf[j]? := by
  have hlen : (buf.take off).length = off := by simp; omega
  unfold memWrite
  by_cases h1 : j < off
  · rw [List.append_assoc, List.getElem?_append_left (by omega), List.getElem?_take, if_pos h1, if_neg (by omega)]
  · by_cases h2 : j < off + v.length
    · rw [List.append_assoc, List.getElem?_append_right (by omega), hlen, List.getElem?_append_left (by omega),
        if_pos (by omega)]
    · rw [List.getElem?_append_right (by simp; omega), if_neg (by omega), List.getElem?_drop]
      congr 1
      simp; omega

/-! ### How a command ends -/

@[simp] theorem succeed_eq (s : State) : succeed s = .next (s.withErr .ok) := rfl

@[simp] theorem raise_eq (e : ErrCode) (s : State) : raise e s = .next (s.withErr e) := rfl

theorem withErr_eq (s : State) (e : ErrCode) : s.withErr e = { s with err := e } := rfl

theorem SeqState.active_iff (q : SeqState) : q.active = true ↔ q = .ready ∨ q = .await := by
  cases q <;> simp [SeqState.active]

theorem SeqState.active_eq_false_iff (q : SeqState) : q.active = false ↔ q = .idle ∨ q = .done ∨ q = .failed := by
  cases q <;> simp [SeqState.active]

/-- A command refused while a sequence is active either raises `E_SEQ_STATE` there or goes on elsewhere. -/
theorem unlessActive_cases (s : State) (go : State → Outcome) :
    (s.seq.active = true ∧ unlessActive s go = .next (s.withErr .seqState)) ∨
      (s.seq.active = false ∧ unlessActive s go = go s) := by
  unfold unlessActive
  cases h : s.seq.active <;> simp

theorem unlessActive_of_active {s : State} {go : State → Outcome} (h : s.seq = .ready ∨ s.seq = .await) :
    unlessActive s go = .next (s.withErr .seqState) := by
  simp [unlessActive, (SeqState.active_iff _).2 h]

theorem unlessActive_of_inactive {s : State} {go : State → Outcome} (h : ¬ (s.seq = .ready ∨ s.seq = .await)) :
    unlessActive s go = go s := by
  have : s.seq.active = false := by
    rw [← SeqState.active_iff] at h; simpa using h
  simp [unlessActive, this]

/-! ### The memory stays within its capacities -/

theorem Memory.wf_iff (s : State) : Memory.wf s = true ↔
    s.pbuf.length ≤ Config.pcap ∧ s.txbuf.length ≤ Config.fcap ∧ s.rxbuf.length ≤ Config.fcap ∧
      s.rpbuf.length ≤ Config.pcap ∧ s.expbuf.length ≤ Config.pcap ∧ s.rdbuf.length ≤ Config.rdCap ∧
      s.digbuf.length = Config.digestLen := by
  simp [Memory.wf, and_assoc]

theorem Memory.wf_reset : Memory.wf State.reset = true := by decide

/-- The memory's form depends on the buffers alone. -/
theorem Memory.wf_congr {s t : State} (h : ∀ b, t.buf b = s.buf b) : Memory.wf t = Memory.wf s := by
  have hp := h .pbuf
  have ht := h .txbuf
  have hr := h .rxbuf
  have hq := h .rpbuf
  have he := h .expbuf
  have hd := h .rdbuf
  have hg := h .digbuf
  simp only [State.buf] at hp ht hr hq he hd hg
  simp only [Memory.wf, hp, ht, hr, hq, he, hd, hg]

/-- Replacing a buffer's content keeps the form, if the content fits (DIGBUF: if it has 32 bytes). -/
theorem Memory.wf_setBuf {s : State} {b : Buffer} {l : List Byte} (h : Memory.wf s = true) (hl : l.length ≤ b.capacity)
    (hd : b = .digbuf → l.length = Config.digestLen) : Memory.wf (s.setBuf b l) = true := by
  rw [Memory.wf_iff] at h ⊢
  cases b <;> simp_all [State.setBuf, Buffer.capacity]

theorem Memory.wf_storeTx {s : State} {f : List Byte} (h : Memory.wf s = true) (hf : f.length ≤ Config.fcap) :
    Memory.wf (s.storeTx f) = true := by
  rw [Memory.wf_iff] at h ⊢
  simp_all

theorem Memory.wf_storePacket {s : State} {p : Packet} (h : Memory.wf s = true) (hp : p.payload.length ≤ Config.pcap) :
    Memory.wf (s.storePacket p) = true := by
  rw [Memory.wf_iff] at h ⊢
  simp_all

theorem Memory.wf_writeReg (r : Reg) (v : Word) (s : State) : Memory.wf (writeReg r v s) = Memory.wf s :=
  Memory.wf_congr (fun b => by cases b <;> simp [State.buf])

theorem countWord_of_le {n : Nat} (h : n ≤ Config.u32Max) : (countWord n).toNat = n := by
  have : n < 4294967296 := by simp [Config.u32Max] at h; omega
  simp [countWord, h, this]

end Sys2Proof.Machine
end

