-- ==== Sys2Proof/Laws/Crc.lean ====
section
/-! SUPPORT. The CRC function: its recursion, its linearity, and that the frame polynomial's step loses nothing. -/

namespace Sys2Proof.Machine

@[simp] theorem crc16_nil (poly init : Half) : crc16 [] poly init = init := rfl

@[simp] theorem crc16_cons (b : Byte) (x : List Byte) (poly init : Half) :
    crc16 (b :: x) poly init = crc16 x poly (crcStep init b poly) := rfl

theorem crc16_append (x y : List Byte) (poly init : Half) : crc16 (x ++ y) poly init = crc16 y poly (crc16 x poly init) := by
  simp [crc16]

/-- One shift is linear in the accumulator. -/
theorem crcShift_xor (poly a c : Half) : crcShift poly (a ^^^ c) = crcShift poly a ^^^ crcShift poly c := by
  unfold crcShift
  rw [BitVec.msb_xor, BitVec.shiftLeft_xor_distrib]
  generalize a <<< 1 = x, c <<< 1 = y
  have cancel : x ^^^ poly ^^^ (y ^^^ poly) = x ^^^ y := by
    rw [BitVec.xor_assoc, BitVec.xor_comm poly, BitVec.xor_assoc, BitVec.xor_self, BitVec.xor_zero]
  cases a.msb <;> cases c.msb <;> simp only [bne_self_eq_false, Bool.false_bne, Bool.bne_false, if_true, if_false,
    Bool.false_eq_true, cancel] <;> ac_rfl

theorem crcShift_iterate_xor (poly : Half) (n : Nat) (a c : Half) :
    (crcShift poly)^[n] (a ^^^ c) = (crcShift poly)^[n] a ^^^ (crcShift poly)^[n] c := by
  induction n generalizing a c with
  | zero => rfl
  | succ n ih => simp only [Function.iterate_succ, Function.comp_apply, crcShift_xor, ih]

/-- With a polynomial whose bit 0 is 1 a shift is one to one, so no difference between two accumulators is lost. -/
theorem crcShift_injective {poly : Half} (h : poly.getLsbD 0 = true) : Function.Injective (crcShift poly) := by
  intro a c hac
  have hx : crcShift poly (a ^^^ c) = 0#16 := by rw [crcShift_xor, hac, BitVec.xor_self]
  have hz : a ^^^ c = 0#16 := by
    unfold crcShift at hx
    by_cases hm : (a ^^^ c).msb = true
    · rw [if_pos hm] at hx
      have h0 := congrArg (fun v : Half => v.getLsbD 0) hx
      simp only [BitVec.getLsbD_xor, BitVec.getLsbD_shiftLeft, h, BitVec.getLsbD_zero] at h0
      simp at h0
    · rw [if_neg hm] at hx
      apply BitVec.eq_of_getLsbD_eq
      intro i hi
      by_cases hi15 : i = 15
      · subst hi15
        simpa [BitVec.msb_eq_getLsbD_last] using hm
      · have h1 := congrArg (fun v : Half => v.getLsbD (i + 1)) hx
        rw [BitVec.getLsbD_zero]
        simpa only [BitVec.getLsbD_shiftLeft, show i + 1 < 16 by omega, show ¬ i + 1 < 1 by omega, decide_true, decide_false,
          Bool.not_false, Bool.true_and, Nat.add_sub_cancel, BitVec.getLsbD_zero] using h1
  exact BitVec.xor_eq_zero_iff.1 hz

theorem crcStep_def (acc : Half) (b : Byte) (poly : Half) :
    crcStep acc b poly = (crcShift poly)^[8] (acc ^^^ (b.zeroExtend 16 <<< 8)) := rfl

end Sys2Proof.Machine
end

