-- ==== Sys2Proof/Laws/Frame.lean ====
section
/-! SUPPORT. The frame codec: the length and layout of an encoded frame, what decoding answers, and what validation answers. -/

namespace Sys2Proof.Machine

@[simp] theorem frameHead_length (marker kind : Byte) (len : Half) (payload : List Byte) :
    (frameHead marker kind len payload).length = 4 + payload.length := by
  simp [frameHead]; omega

@[simp] theorem encodeFrame_length (kind : Byte) (payload : List Byte) :
    (encodeFrame kind payload).length = 6 + payload.length := by
  simp [encodeFrame]; omega

/-- The frame's last two bytes are the CRC of the bytes before them. -/
theorem rdle16_encodeFrame_crc (kind : Byte) (payload : List Byte) :
    rdle16 (encodeFrame kind payload) ((encodeFrame kind payload).length - 2) =
      frameCrc (frameHead Config.startMarker kind (BitVec.ofNat 16 payload.length) payload) := by
  have h := rdle16_at (frameHead Config.startMarker kind (BitVec.ofNat 16 payload.length) payload) []
    (frameCrc (frameHead Config.startMarker kind (BitVec.ofNat 16 payload.length) payload))
  rw [List.append_nil] at h
  rw [encodeFrame_length, show 6 + payload.length - 2 = 4 + payload.length by omega, ← frameHead_length]
  exact h

/-- The bytes of a frame: marker, kind, the two length bytes, the payload, the two CRC bytes. -/
def rawFrame (marker kind l0 l1 : Byte) (payload : List Byte) (c0 c1 : Byte) : List Byte :=
  [marker, kind, l0, l1] ++ payload ++ [c0, c1]

@[simp] theorem rawFrame_length (marker kind l0 l1 : Byte) (payload : List Byte) (c0 c1 : Byte) :
    (rawFrame marker kind l0 l1 payload c0 c1).length = 6 + payload.length := by
  simp [rawFrame]; omega

/-- Every byte sequence of 6 bytes or more is a raw frame. -/
theorem exists_rawFrame (f : List Byte) (h : 6 ≤ f.length) :
    ∃ marker kind l0 l1 payload c0 c1, f = rawFrame marker kind l0 l1 payload c0 c1 := by
  obtain ⟨m, k, l0, l1, rest, rfl⟩ : ∃ m k l0 l1 rest, f = m :: k :: l0 :: l1 :: rest := by
    match f, h with
    | m :: k :: l0 :: l1 :: rest, _ => exact ⟨m, k, l0, l1, rest, rfl⟩
  have hrest : 2 ≤ rest.length := by simp at h; omega
  obtain ⟨c0, c1, hc⟩ : ∃ c0 c1, rest.drop (rest.length - 2) = [c0, c1] :=
    List.length_eq_two.1 (by simp; omega)
  refine ⟨m, k, l0, l1, rest.take (rest.length - 2), c0, c1, ?_⟩
  simp [rawFrame, ← hc]

theorem encodeFrame_eq_rawFrame (kind : Byte) (payload : List Byte) :
    encodeFrame kind payload =
      rawFrame Config.startMarker kind ((BitVec.ofNat 16 payload.length).extractLsb' 0 8)
        ((BitVec.ofNat 16 payload.length).extractLsb' 8 8) payload
        ((frameCrc (frameHead Config.startMarker kind (BitVec.ofNat 16 payload.length) payload)).extractLsb' 0 8)
        ((frameCrc (frameHead Config.startMarker kind (BitVec.ofNat 16 payload.length) payload)).extractLsb' 8 8) := by
  simp [encodeFrame, rawFrame, frameHead, le16]

theorem decodeFrame_short {f : List Byte} (h : f.length < 6) : decodeFrame f = .error .frameShort := by
  simp [decodeFrame, h]

/-- Decoding a raw frame compares its length field with its payload and takes its fields. -/
theorem decodeFrame_rawFrame (marker kind l0 l1 : Byte) (payload : List Byte) (c0 c1 : Byte) :
    decodeFrame (rawFrame marker kind l0 l1 payload c0 c1) =
      if (l1 ++ l0 : Half).toNat = payload.length then
        .ok { marker := marker, kind := kind, len := l1 ++ l0, payload := payload, crcRx := c1 ++ c0 }
      else .error .lenMismatch := by
  have hlen : rdle16 (rawFrame marker kind l0 l1 payload c0 c1) 2 = l1 ++ l0 :=
    by simpa [rawFrame] using rdle16_pair [marker, kind] (payload ++ [c0, c1]) l0 l1
  have hcrc : rdle16 (rawFrame marker kind l0 l1 payload c0 c1) (4 + payload.length) = c1 ++ c0 := by
    have h := rdle16_pair ([marker, kind, l0, l1] ++ payload) [] c0 c1
    rwa [List.append_nil, List.length_append] at h
  have hpay : memRead (rawFrame marker kind l0 l1 payload c0 c1) 4 payload.length = payload :=
    memRead_at [marker, kind, l0, l1] payload [c0, c1]
  have h0 : byteAt (rawFrame marker kind l0 l1 payload c0 c1) 0 = marker := by simp [byteAt, rawFrame]
  have h1 : byteAt (rawFrame marker kind l0 l1 payload c0 c1) 1 = kind := by simp [byteAt, rawFrame]
  have hsub : 6 + payload.length - 6 = payload.length := by omega
  simp only [decodeFrame, rawFrame_length, Config.minFrame, hlen, hsub, hcrc, hpay, h0, h1]
  rw [if_neg (by omega)]
  by_cases h : (l1 ++ l0 : Half).toNat = payload.length <;> simp [h]

/-- Decoding answers an error only for a frame that is too short or whose length field is wrong, and a packet whose
length is that of its payload otherwise. -/
theorem decodeFrame_cases (f : List Byte) :
    (f.length < 6 ∧ decodeFrame f = .error .frameShort) ∨ (6 ≤ f.length ∧ decodeFrame f = .error .lenMismatch) ∨
      ∃ p, decodeFrame f = .ok p ∧ p.len.toNat = p.payload.length ∧ f.length = 6 + p.payload.length := by
  by_cases h : f.length < 6
  · exact .inl ⟨h, decodeFrame_short h⟩
  · obtain ⟨m, k, l0, l1, payload, c0, c1, rfl⟩ := exists_rawFrame f (by omega)
    rw [decodeFrame_rawFrame]
    by_cases hl : (l1 ++ l0 : Half).toNat = payload.length
    · rw [if_pos hl]
      exact .inr (.inr ⟨_, rfl, hl, by simp⟩)
    · rw [if_neg hl]
      exact .inr (.inl ⟨by simp, rfl⟩)

theorem any_ne_iff {α : Type} [BEq α] [LawfulBEq α] (o : Option α) (x : α) :
    o.any (fun k => x != k) = true ↔ ∃ k, o = some k ∧ x ≠ k := by
  cases o <;> simp

/-- What validation answers, one clause for each check in its order. -/
theorem validate_cases (p : Packet) (ek : Option Byte) (ep : Option (List Byte)) :
    (p.marker ≠ Config.startMarker ∧ validate p ek ep = .badMarker) ∨
    (p.marker = Config.startMarker ∧ (∃ k, ek = some k ∧ p.kind ≠ k) ∧ validate p ek ep = .unexpKind) ∨
    (p.marker = Config.startMarker ∧ (∀ k, ek = some k → p.kind = k) ∧ (∃ e, ep = some e ∧ p.payload ≠ e) ∧
      validate p ek ep = .unexpPayload) ∨
    (p.marker = Config.startMarker ∧ (∀ k, ek = some k → p.kind = k) ∧ (∀ e, ep = some e → p.payload = e) ∧
      frameCrc (frameHead p.marker p.kind p.len p.payload) ≠ p.crcRx ∧ validate p ek ep = .crcMismatch) ∨
    (p.marker = Config.startMarker ∧ (∀ k, ek = some k → p.kind = k) ∧ (∀ e, ep = some e → p.payload = e) ∧
      frameCrc (frameHead p.marker p.kind p.len p.payload) = p.crcRx ∧ validate p ek ep = .ok) := by
  unfold validate
  by_cases hm : p.marker = Config.startMarker
  · by_cases hk : ∃ k, ek = some k ∧ p.kind ≠ k
    · have hk' := (any_ne_iff ek p.kind).2 hk
      exact .inr (.inl ⟨hm, hk, by rw [if_neg (by simp [hm]), if_pos hk']⟩)
    · have hk' := mt (any_ne_iff ek p.kind).1 hk
      have hk2 : ∀ k, ek = some k → p.kind = k := by
        intro k h; by_contra hne; exact hk ⟨k, h, hne⟩
      by_cases hp : ∃ e, ep = some e ∧ p.payload ≠ e
      · have hp' := (any_ne_iff ep p.payload).2 hp
        exact .inr (.inr (.inl ⟨hm, hk2, hp, by rw [if_neg (by simp [hm]), if_neg hk', if_pos hp']⟩))
      · have hp' := mt (any_ne_iff ep p.payload).1 hp
        have hp2 : ∀ e, ep = some e → p.payload = e := by
          intro e h; by_contra hne; exact hp ⟨e, h, hne⟩
        by_cases hc : frameCrc (frameHead p.marker p.kind p.len p.payload) = p.crcRx
        · exact .inr (.inr (.inr (.inr ⟨hm, hk2, hp2, hc, by
            rw [if_neg (by simp [hm]), if_neg hk', if_neg hp', if_neg (by simp [hc])]⟩)))
        · exact .inr (.inr (.inr (.inl ⟨hm, hk2, hp2, hc, by
            rw [if_neg (by simp [hm]), if_neg hk', if_neg hp', if_pos hc]⟩)))
  · exact .inl ⟨hm, by rw [if_pos hm]⟩

/-- Validation of a decoded packet reports what the checks answer, and nothing else changes. -/
theorem validateDecoded_eq (ek : Option Byte) (ep : Option (List Byte)) (s : State) :
    validateDecoded ek ep s = .next (s.withErr (if s.decValid then validate s.packet ek ep else .noFrame)) := by
  unfold validateDecoded
  cases s.decValid
  · simp
  · cases h : validate s.packet ek ep <;> simp

/-- Framing PBUF with a kind: the frame into TXBUF, its CRC into `TX_CRC`. -/
theorem frameKind_eq (kind : Byte) (s : State) : frameKind kind s =
    .next { s with
      txbuf := encodeFrame kind s.pbuf
      txCrc := frameCrc (frameHead Config.startMarker kind (BitVec.ofNat 16 s.pbuf.length) s.pbuf)
      err := .ok } := by
  simp only [frameKind, succeed_eq, State.withErr, State.storeTx, rdle16_encodeFrame_crc]

end Sys2Proof.Machine
end

