-- ==== Sys2Proof/Laws/Image.lean ====
section
/-! SUPPORT. The image unit: the bounds of the derived window, the window image byte by byte, and what a record does. -/

namespace Sys2Proof.Machine

/-! ### The derived window -/

/-- A running minimum is below its start and every later value, and is one of them. -/
theorem foldl_min_spec (f : Block → Nat) (bs : List Block) (m : Nat) :
    bs.foldl (fun m c => min m (f c)) m ≤ m ∧ (∀ b ∈ bs, bs.foldl (fun m c => min m (f c)) m ≤ f b) ∧
      (bs.foldl (fun m c => min m (f c)) m = m ∨ ∃ b ∈ bs, bs.foldl (fun m c => min m (f c)) m = f b) := by
  induction bs generalizing m with
  | nil => simp
  | cons c bs ih =>
    obtain ⟨h1, h2, h3⟩ := ih (min m (f c))
    simp only [List.foldl_cons, List.mem_cons, forall_eq_or_imp, exists_eq_or_imp]
    refine ⟨by omega, ⟨by omega, h2⟩, ?_⟩
    rcases h3 with h3 | h3
    · rw [h3]; rcases Nat.le_total m (f c) with h | h
      · exact .inl (by omega)
      · exact .inr (.inl (by omega))
    · exact .inr (.inr h3)

/-- A running maximum is above its start and every later value, and is one of them. -/
theorem foldl_max_spec (f : Block → Nat) (bs : List Block) (m : Nat) :
    m ≤ bs.foldl (fun m c => max m (f c)) m ∧ (∀ b ∈ bs, f b ≤ bs.foldl (fun m c => max m (f c)) m) ∧
      (bs.foldl (fun m c => max m (f c)) m = m ∨ ∃ b ∈ bs, bs.foldl (fun m c => max m (f c)) m = f b) := by
  induction bs generalizing m with
  | nil => simp
  | cons c bs ih =>
    obtain ⟨h1, h2, h3⟩ := ih (max m (f c))
    simp only [List.foldl_cons, List.mem_cons, forall_eq_or_imp, exists_eq_or_imp]
    refine ⟨by omega, ⟨by omega, h2⟩, ?_⟩
    rcases h3 with h3 | h3
    · rw [h3]; rcases Nat.le_total m (f c) with h | h
      · exact .inr (.inl (by omega))
      · exact .inl (by omega)
    · exact .inr (.inr h3)

/-- The derived window is tight: no block outside it, and each bound attained (R145). -/
theorem deriveWindow_spec {bs : List Block} (h : bs ≠ []) :
    (∀ b ∈ bs, (deriveWindow bs).1 ≤ b.addr.toNat ∧ b.stop ≤ (deriveWindow bs).2) ∧
      (∃ b ∈ bs, b.addr.toNat = (deriveWindow bs).1) ∧ ∃ b ∈ bs, b.stop = (deriveWindow bs).2 := by
  obtain ⟨c, cs, rfl⟩ := List.exists_cons_of_ne_nil h
  obtain ⟨a1, a2, a3⟩ := foldl_min_spec (fun b => b.addr.toNat) cs c.addr.toNat
  obtain ⟨b1, b2, b3⟩ := foldl_max_spec Block.stop cs c.stop
  simp only [deriveWindow, List.mem_cons, forall_eq_or_imp, exists_eq_or_imp]
  refine ⟨⟨⟨a1, b1⟩, fun b hb => ⟨a2 b hb, b2 b hb⟩⟩, ?_, ?_⟩
  · rcases a3 with a3 | ⟨b, hb, a3⟩
    · exact .inl a3.symm
    · exact .inr ⟨b, hb, a3.symm⟩
  · rcases b3 with b3 | ⟨b, hb, b3⟩
    · exact .inl b3.symm
    · exact .inr ⟨b, hb, b3.symm⟩

theorem Block.wf_iff (b : Block) :
    b.wf = true ↔ b.data.length ≤ Config.rdCap ∧ b.stop ≤ Config.u32Max := by
  simp [Block.wf]

/-- Both bounds of the window of well-formed blocks are 32-bit numbers. -/
theorem deriveWindow_lt {bs : List Block} (h : ∀ b ∈ bs, b.stop ≤ Config.u32Max) :
    (deriveWindow bs).1 < 2 ^ 32 ∧ (deriveWindow bs).2 < 2 ^ 32 := by
  by_cases hne : bs = []
  · subst hne; simp [deriveWindow]
  · obtain ⟨-, ⟨b, hb, h1⟩, ⟨c, hc, h2⟩⟩ := deriveWindow_spec hne
    have := h c hc
    have := b.addr.isLt
    simp only [Config.u32Max] at *
    omega

/-! ### The window image -/

theorem overlay_length (lo hi : Nat) (buf : List Byte) (b : Block) (h : buf.length = hi - lo) :
    (overlay lo hi buf b).length = hi - lo := by
  unfold overlay
  simp only
  split
  · next hs =>
    have hstop : b.stop = b.addr.toNat + b.data.length := rfl
    rw [memWrite_length _ _ _ ?_, h]
    rw [memRead_length _ _ _ (by omega)]
    omega
  · exact h

/-- One block's copy: its own bytes where it covers, the buffer's elsewhere. -/
theorem overlay_getElem? (lo hi x : Nat) (buf : List Byte) (b : Block) (h : buf.length = hi - lo) (hl : lo ≤ x)
    (hh : x < hi) : (overlay lo hi buf b)[x - lo]? = (b.byte x).or buf[x - lo]? := by
  unfold overlay
  simp only
  have hbyte : b.byte x = if b.addr.toNat ≤ x ∧ x < b.stop then b.data[x - b.addr.toNat]? else none := by
    unfold Block.byte Block.stop
    by_cases h1 : b.addr.toNat ≤ x
    · by_cases h2 : x < b.addr.toNat + b.data.length
      · simp [h1, h2]
      · simp [h1, h2]; omega
    · simp [h1]
  have hstop : b.stop = b.addr.toNat + b.data.length := rfl
  rw [hbyte]
  split
  · next hs =>
    have hlen : (memRead b.data (max b.addr.toNat lo - b.addr.toNat) (min b.stop hi - max b.addr.toNat lo)).length =
        min b.stop hi - max b.addr.toNat lo := memRead_length _ _ _ (by omega)
    rw [memWrite_getElem? _ _ _ _ (by rw [hlen]; omega), hlen]
    by_cases hc : b.addr.toNat ≤ x ∧ x < b.stop
    · rw [if_pos (by omega), if_pos hc, memRead_getElem? _ _ _ _ (by omega)]
      have : max b.addr.toNat lo - b.addr.toNat + (x - lo - (max b.addr.toNat lo - lo)) = x - b.addr.toNat := by omega
      rw [this, List.getElem?_eq_getElem (by omega)]
      rfl
    · rw [if_neg (by omega), if_neg hc]; rfl
  · next hs =>
    rw [if_neg (by omega)]; rfl

theorem foldl_overlay_length (lo hi : Nat) (bs : List Block) (buf : List Byte) (h : buf.length = hi - lo) :
    (bs.foldl (overlay lo hi) buf).length = hi - lo := by
  induction bs generalizing buf with
  | nil => exact h
  | cons b bs ih => exact ih _ (overlay_length lo hi buf b h)

theorem foldl_overlay_getElem? (lo hi x : Nat) (bs : List Block) (buf : List Byte) (h : buf.length = hi - lo)
    (hl : lo ≤ x) (hh : x < hi) : (bs.foldl (overlay lo hi) buf)[x - lo]? = (imageByte bs x).or buf[x - lo]? := by
  induction bs generalizing buf with
  | nil => rfl
  | cons b bs ih =>
    rw [List.foldl_cons, ih _ (overlay_length lo hi buf b h), overlay_getElem? lo hi x buf b h hl hh, imageByte,
      Option.or_assoc]

@[simp] theorem windowImage_length (bs : List Block) (lo hi : Nat) : (windowImage bs lo hi).length = hi - lo :=
  foldl_overlay_length lo hi bs _ (by simp)

/-- The window image, byte by byte: what the image address holds, or the gap filling. -/
theorem windowImage_getElem? (bs : List Block) {lo hi x : Nat} (hl : lo ≤ x) (hh : x < hi) :
    (windowImage bs lo hi)[x - lo]? = some ((imageByte bs x).getD Config.gapFill) := by
  have : x - lo < hi - lo := by omega
  rw [windowImage, foldl_overlay_getElem? lo hi x bs _ (by simp) hl hh]
  cases imageByte bs x <;> simp [this]

theorem imageByte_append (bs cs : List Block) (x : Nat) :
    imageByte (bs ++ cs) x = (imageByte cs x).or (imageByte bs x) := by
  induction bs with
  | nil => simp [imageByte]
  | cons b bs ih => simp [imageByte, ih, Option.or_assoc]

theorem Block.byte_eq_none_iff (b : Block) (x : Nat) :
    b.byte x = none ↔ ¬ (b.addr.toNat ≤ x ∧ x < b.addr.toNat + b.data.length) := by
  unfold Block.byte
  by_cases h : b.addr.toNat ≤ x
  · simp [h]; omega
  · simp [h]

theorem imageByte_eq_none {bs : List Block} {x : Nat}
    (h : ∀ b ∈ bs, ¬ (b.addr.toNat ≤ x ∧ x < b.addr.toNat + b.data.length)) : imageByte bs x = none := by
  induction bs with
  | nil => rfl
  | cons b bs ih =>
    rw [imageByte, ih (fun c hc => h c (List.mem_cons_of_mem _ hc)),
      (Block.byte_eq_none_iff b x).2 (h b (List.mem_cons_self ..))]
    rfl

/-! ### Records -/

/-- What a data record does, in the order of its checks. -/
theorem replayData_cases (n : Nat) (s : State) :
    (recordAddr s + s.rdbuf.length > Config.u32Max ∧ replayData n s = .next (s.withErr .addrRange)) ∨
    (recordAddr s + s.rdbuf.length ≤ Config.u32Max ∧ s.blk.length = n ∧ replayData n s = .next (s.withErr .blockFull)) ∨
    (recordAddr s + s.rdbuf.length ≤ Config.u32Max ∧ s.blk.length ≠ n ∧ replayData n s =
      .next { s with
        blk := s.blk ++ [{ addr := BitVec.ofNat 32 (recordAddr s), data := s.rdbuf }]
        digValid := false
        err := .ok }) := by
  unfold replayData
  by_cases h1 : recordAddr s + s.rdbuf.length > Config.u32Max
  · exact .inl ⟨h1, by rw [if_pos h1]; rfl⟩
  · by_cases h2 : s.blk.length = n
    · exact .inr (.inl ⟨by omega, h2, by rw [if_neg h1, if_pos h2]; rfl⟩)
    · exact .inr (.inr ⟨by omega, h2, by rw [if_neg h1, if_neg h2]; rfl⟩)

theorem replaySegment_eq (s : State) :
    replaySegment s = .next { s with imgBase := BitVec.ofNat 32 (s.recValue.toNat * 16), err := .ok } := by
  have : s.recValue.zeroExtend 32 <<< 4 = BitVec.ofNat 32 (s.recValue.toNat * 16) := by
    apply BitVec.eq_of_toNat_eq
    have := s.recValue.isLt
    simp [Nat.shiftLeft_eq]
  simp [replaySegment, State.withErr, this]

theorem replayLinear_eq (s : State) :
    replayLinear s = .next { s with imgBase := BitVec.ofNat 32 (s.recValue.toNat * 65536), err := .ok } := by
  have : s.recValue.zeroExtend 32 <<< 16 = BitVec.ofNat 32 (s.recValue.toNat * 65536) := by
    apply BitVec.eq_of_toNat_eq
    have := s.recValue.isLt
    simp [Nat.shiftLeft_eq]
  simp [replayLinear, State.withErr, this]

theorem replayIgnored_eq (s : State) : replayIgnored s = .next (s.withErr .ok) := rfl

/-- The record replay, by the four kinds of type code (R94). -/
theorem replay_cases (c : Byte) (s : State) :
    (c = 0x00#8 ∧ replay c s = replayData Config.maxBlocks s) ∨ (c = 0x02#8 ∧ replay c s = replaySegment s) ∨
      (c = 0x04#8 ∧ replay c s = replayLinear s) ∨
      (c ≠ 0x00#8 ∧ c ≠ 0x02#8 ∧ c ≠ 0x04#8 ∧ replay c s = replayIgnored s) := by
  by_cases h0 : c = 0x00#8
  · subst h0; exact .inl ⟨rfl, rfl⟩
  by_cases h2 : c = 0x02#8
  · subst h2; exact .inr (.inl ⟨rfl, rfl⟩)
  by_cases h4 : c = 0x04#8
  · subst h4; exact .inr (.inr (.inl ⟨rfl, rfl⟩))
  refine .inr (.inr (.inr ⟨h0, h2, h4, ?_⟩))
  have n0 : c.toNat ≠ 0 := fun h => h0 (BitVec.eq_of_toNat_eq h)
  have n2 : c.toNat ≠ 2 := fun h => h2 (BitVec.eq_of_toNat_eq h)
  have n4 : c.toNat ≠ 4 := fun h => h4 (BitVec.eq_of_toNat_eq h)
  unfold replay
  split <;> simp_all

/-! ### The digest -/

theorem Sha256.digest_length (m : List Byte) : (Sha256.digest m).length = Config.digestLen := rfl

end Sys2Proof.Machine
end

