-- ==== Sys2Proof/Laws/Merge.lean ====
section
/-! SUPPORT. The merger: chunking piece by piece, merging keeps every byte at its image address, and the shape and the byte count of a planned sequence. -/

namespace Sys2Proof.Machine

/-! ### Chunks -/

@[simp] theorem chunk_nil (n : Nat) : chunk [] n = [] := rfl

@[simp] theorem chunkFuel_nil (fuel n : Nat) : chunkFuel fuel [] n = [] := by cases fuel <;> rfl

/-- Any two amounts of fuel that cover the bytes give the same pieces. -/
theorem chunkFuel_congr {n : Nat} (hn : 1 ≤ n) (f g : Nat) (d : List Byte) (hf : d.length ≤ f) (hg : d.length ≤ g) :
    chunkFuel f d n = chunkFuel g d n := by
  induction f generalizing g d with
  | zero =>
    obtain rfl := List.eq_nil_of_length_eq_zero (Nat.le_zero.1 hf)
    simp
  | succ f ih =>
    cases d with
    | nil => simp
    | cons b d =>
      obtain ⟨g, rfl⟩ : ∃ k, g = k + 1 := ⟨g - 1, by simp only [List.length_cons] at hg; omega⟩
      simp only [List.length_cons] at hf hg
      simp only [chunkFuel]
      rw [ih g _ (by simp; omega) (by simp; omega)]

/-- The first piece and the pieces of what is left (R160). -/
theorem chunk_of_ne_nil {d : List Byte} {n : Nat} (hn : 1 ≤ n) (hd : d ≠ []) :
    chunk d n = d.take n :: chunk (d.drop n) n := by
  obtain ⟨b, bs, rfl⟩ := List.exists_cons_of_ne_nil hd
  show chunkFuel (bs.length + 1) (b :: bs) n = _
  simp only [chunkFuel, chunk]
  rw [chunkFuel_congr hn bs.length _ _ (by simp; omega) (le_refl _)]

/-- Induction over the pieces: the empty data, and data whose first piece is taken off. -/
theorem chunk_induction {n : Nat} (hn : 1 ≤ n) {P : List Byte → Prop} (nil : P [])
    (cons : ∀ d, d ≠ [] → P (d.drop n) → P d) (d : List Byte) : P d := by
  induction h : d.length using Nat.strong_induction_on generalizing d with
  | _ k ih =>
    by_cases hd : d = []
    · exact hd ▸ nil
    · have : 0 < d.length := List.length_pos_iff.2 hd
      exact cons d hd (ih (d.drop n).length (by simp; omega) _ rfl)

theorem chunk_flatten {n : Nat} (hn : 1 ≤ n) (d : List Byte) : (chunk d n).flatten = d := by
  induction d using chunk_induction hn with
  | nil => rfl
  | cons d hd ih => rw [chunk_of_ne_nil hn hd, List.flatten_cons, ih, List.take_append_drop]

/-- Every piece has at least one byte and at most `n`. -/
theorem chunk_mem_length {n : Nat} (hn : 1 ≤ n) (d : List Byte) : ∀ c ∈ chunk d n, 1 ≤ c.length ∧ c.length ≤ n := by
  induction d using chunk_induction hn with
  | nil => simp
  | cons d hd ih =>
    have : 0 < d.length := List.length_pos_iff.2 hd
    rw [chunk_of_ne_nil hn hd]
    intro c hc
    rcases List.mem_cons.1 hc with rfl | hc
    · simp; omega
    · exact ih c hc

/-! ### Bytes with their image addresses -/

@[simp] theorem addressedBytes_nil (a : Nat) : addressedBytes a [] = [] := rfl

theorem addressedBytes_cons (a : Nat) (b : Byte) (d : List Byte) :
    addressedBytes a (b :: d) = (a, b) :: addressedBytes (a + 1) d := by
  simp only [addressedBytes, List.zipIdx_cons, List.map_cons, Nat.add_zero, Nat.zero_add]
  rw [show d.zipIdx 1 = (d.zipIdx 0).map (fun p => (p.1, p.2 + 1)) from List.zipIdx_succ, List.map_map]
  congr 1
  apply List.map_congr_left
  intro p _
  simp only [Function.comp_apply, Prod.mk.injEq, and_true]
  omega

theorem addressedBytes_append (a : Nat) (d e : List Byte) :
    addressedBytes a (d ++ e) = addressedBytes a d ++ addressedBytes (a + d.length) e := by
  induction d generalizing a with
  | nil => rfl
  | cons b d ih =>
    rw [List.cons_append, addressedBytes_cons, addressedBytes_cons, ih, List.cons_append, List.length_cons,
      Nat.add_assoc, Nat.add_comm 1]

/-- The addresses of a piece of data are those from its start to before its end (R67). -/
theorem addressedBytes_map_fst (a : Nat) (d : List Byte) : (addressedBytes a d).map Prod.fst = List.range' a d.length := by
  induction d generalizing a with
  | nil => rfl
  | cons b d ih => rw [addressedBytes_cons, List.map_cons, ih, List.length_cons, List.range'_succ]

/-! ### Merging -/

/-- What `merge` makes of the blocks: those flushed, one after another, with the blocks of `bs` joined into them. -/
theorem mergeLoop_addressedBytes (limit : Nat) (pend : Option Block) (bs : List Block) :
    (mergeLoop limit pend bs).flatMap (fun b => addressedBytes b.addr.toNat b.data) =
      (pend.toList ++ bs).flatMap (fun b => addressedBytes b.addr.toNat b.data) := by
  induction bs generalizing pend with
  | nil => cases pend <;> simp [mergeLoop]
  | cons b bs ih =>
    cases pend with
    | none => rw [mergeLoop, ih]; rfl
    | some p =>
      rw [mergeLoop]
      split
      · next h =>
        have hb : b.addr.toNat = p.addr.toNat + p.data.length := by
          exact of_decide_eq_true (Bool.and_eq_true_iff.1 h).1
        rw [ih]
        simp [addressedBytes_append, hb]
      · rw [List.flatMap_cons, ih]; simp

/-- Merging keeps the total number of bytes. -/
theorem mergeLoop_totalBytes (limit : Nat) (pend : Option Block) (bs : List Block) :
    totalBytes (mergeLoop limit pend bs) = totalBytes (pend.toList ++ bs) := by
  induction bs generalizing pend with
  | nil => cases pend <;> simp [mergeLoop]
  | cons b bs ih =>
    cases pend with
    | none => rw [mergeLoop, ih]; rfl
    | some p =>
      rw [mergeLoop]
      split
      · rw [ih]; simp [totalBytes, Nat.add_assoc]
      · simp only [totalBytes, List.map_cons, List.sum_cons] at *
        rw [ih]; simp

/-- A bound on where every block ends is kept by merging (R161: the merged end is that of the joined block). -/
theorem mergeLoop_stop_le {limit top : Nat} (pend : Option Block) (bs : List Block)
    (h : ∀ b ∈ pend.toList ++ bs, b.stop ≤ top) : ∀ b ∈ mergeLoop limit pend bs, b.stop ≤ top := by
  induction bs generalizing pend with
  | nil =>
    rw [List.append_nil] at h
    cases pend <;> exact h
  | cons b bs ih =>
    cases pend with
    | none => exact ih _ (by simpa using h)
    | some p =>
      rw [mergeLoop]
      split
      · next hj =>
        have hb : b.addr.toNat = p.stop := by simpa [joins] using (Bool.and_eq_true_iff.1 hj).1
        refine ih _ ?_
        have h2 : b.stop ≤ top := h b (by simp)
        intro c hc
        rcases List.mem_append.1 hc with hc | hc
        · obtain rfl : c = { addr := p.addr, data := p.data ++ b.data } := by simpa using hc
          simp only [Block.stop, List.length_append] at hb h2 ⊢
          omega
        · exact h c (by simp [hc])
      · intro c hc
        rcases List.mem_cons.1 hc with rfl | hc
        · exact h c (by simp)
        · exact ih _ (fun d hd => h d (by simp at hd ⊢; tauto)) c hc

/-! ### Flushing -/

theorem addressed_map_snd (cur : Word) (cs : List (List Byte)) : (addressed cur cs).map Prod.snd = cs := by
  induction cs generalizing cur with
  | nil => rfl
  | cons c cs ih => simp [addressed, ih]

/-- The chunks of a flushed block carry its bytes at their own image addresses (R162). -/
theorem addressed_addressedBytes (cur : Word) (cs : List (List Byte)) (h : cur.toNat + cs.flatten.length < 2 ^ 32) :
    (addressed cur cs).flatMap (fun u => addressedBytes u.1.toNat u.2) = addressedBytes cur.toNat cs.flatten := by
  induction cs generalizing cur with
  | nil => rfl
  | cons c cs ih =>
    rw [List.flatten_cons, List.length_append] at h
    have hc : (cur + BitVec.ofNat 32 c.length).toNat = cur.toNat + c.length := by
      rw [BitVec.toNat_add, BitVec.toNat_ofNat, Nat.add_mod_mod, Nat.mod_eq_of_lt (by omega)]
    rw [addressed, List.flatMap_cons, ih _ (by omega), hc, List.flatten_cons, addressedBytes_append]

theorem flush_addressedBytes {m : Block} {cs : Nat} (hcs : 1 ≤ cs) (hm : m.stop ≤ Config.u32Max) :
    (flush m cs).flatMap (fun u => addressedBytes u.1.toNat u.2) = addressedBytes m.addr.toNat m.data := by
  simp only [Block.stop, Config.u32Max] at hm
  rw [flush, addressed_addressedBytes _ _ (by rw [chunk_flatten hcs]; omega), chunk_flatten hcs]

/-- Every unit carries 1 to `cs` bytes. -/
theorem units_mem_length {bs : List Block} {limit cs : Nat} (hcs : 1 ≤ cs) :
    ∀ u ∈ units bs limit cs, 1 ≤ u.2.length ∧ u.2.length ≤ cs := by
  intro u hu
  obtain ⟨m, -, hu⟩ := List.mem_flatMap.1 hu
  refine chunk_mem_length hcs m.data u.2 ?_
  rw [← addressed_map_snd m.addr (chunk m.data cs)]
  exact List.mem_map_of_mem hu

/-- The units of the blocks carry every byte of every block at its own image address, in stream order (R174). -/
theorem units_addressedBytes {bs : List Block} {limit cs : Nat} (hcs : 1 ≤ cs) (h : ∀ b ∈ bs, b.stop ≤ Config.u32Max) :
    (units bs limit cs).flatMap (fun u => addressedBytes u.1.toNat u.2) =
      bs.flatMap (fun b => addressedBytes b.addr.toNat b.data) := by
  have hm := mergeLoop_stop_le (limit := limit) none bs (by simpa using h)
  have hl := mergeLoop_addressedBytes limit none bs
  rw [units, List.flatMap_assoc]
  simp only [Option.toList_none, List.nil_append] at hl
  rw [← hl, merge]
  exact List.flatMap_congr (fun m hmem => flush_addressedBytes hcs (hm m hmem))

/-! ### The planned sequence -/

theorem sentBytes_append (es fs : List SeqEntry) : sentBytes (es ++ fs) = sentBytes es + sentBytes fs := by
  simp [sentBytes]

@[simp] theorem sentBytes_nil : sentBytes [] = 0 := rfl

@[simp] theorem sentBytes_metaEntry (marker lo hi : Word) : sentBytes [metaEntry marker lo hi] = 0 := rfl

theorem sentBytes_map_dataEntry (us : List (Word × List Byte)) :
    sentBytes (us.map dataEntry) = (us.map (fun u => u.2.length)).sum := by
  simp [sentBytes, dataEntry, Function.comp_def]

/-- Taking one more entry adds its bytes. -/
theorem sentBytes_take_succ {es : List SeqEntry} {n : Nat} {e : SeqEntry} (h : es[n]? = some e) :
    sentBytes (es.take (n + 1)) = sentBytes (es.take n) + if e.tag = .firmware then e.data.length else 0 := by
  obtain ⟨hn, rfl⟩ := List.getElem?_eq_some_iff.1 h
  rw [List.take_succ_eq_append_getElem hn, sentBytes_append]
  simp [sentBytes]

theorem sentBytes_take_le (es : List SeqEntry) (n : Nat) : sentBytes (es.take n) ≤ sentBytes es := by
  conv_rhs => rw [← List.take_append_drop n es]
  rw [sentBytes_append]; omega

theorem flush_bytes {m : Block} {cs : Nat} (hcs : 1 ≤ cs) :
    ((flush m cs).map (fun u => u.2.length)).sum = m.data.length := by
  have h : (flush m cs).map (fun u => u.2.length) = (chunk m.data cs).map List.length := by
    conv_rhs => rw [← addressed_map_snd m.addr (chunk m.data cs)]
    rw [List.map_map]; rfl
  rw [h, ← List.length_flatten, chunk_flatten hcs]

theorem units_bytes (bs : List Block) (limit : Nat) {cs : Nat} (hcs : 1 ≤ cs) :
    ((units bs limit cs).map (fun u => u.2.length)).sum = totalBytes bs := by
  have hl := mergeLoop_totalBytes limit none bs
  simp only [Option.toList_none, List.nil_append] at hl
  rw [← hl, units, ← merge]
  generalize merge bs limit = ms
  induction ms with
  | nil => rfl
  | cons m ms ih => simp only [List.flatMap_cons, List.map_append, List.sum_append, ih, flush_bytes hcs, totalBytes,
      List.map_cons, List.sum_cons]

/-- The DATA entries of a plan carry as many bytes as the blocks have (R166, R170). -/
theorem plan_sentBytes (bs : List Block) (maxp : Nat) {cs : Nat} (hcs : 1 ≤ cs) (marker : Word) :
    sentBytes (plan bs maxp cs marker) = totalBytes bs := by
  rw [plan, sentBytes_append, sentBytes_map_dataEntry, units_bytes _ _ hcs]; rfl

theorem plan_ne_nil (bs : List Block) (maxp cs : Nat) (marker : Word) : plan bs maxp cs marker ≠ [] := by
  simp [plan]

/-- A store within its bounds holds fewer bytes than 2^32 (R10). -/
theorem totalBytes_lt {bs : List Block} (hb : ∀ b ∈ bs, b.data.length ≤ Config.rdCap) (hl : bs.length ≤ Config.maxBlocks) :
    totalBytes bs < 2 ^ 32 := by
  have h : totalBytes bs ≤ bs.length * Config.rdCap := by
    clear hl
    induction bs with
    | nil => simp [totalBytes]
    | cons b bs ih =>
      have h1 := hb b (List.mem_cons_self ..)
      have h2 := ih (fun c hc => hb c (List.mem_cons_of_mem _ hc))
      simp only [totalBytes, List.map_cons, List.sum_cons, List.length_cons] at *
      rw [Nat.add_mul]; omega
  have hm : Config.maxBlocks ≤ 16843009 := Config.maxBlocksLessOne.isLt
  have : bs.length * Config.rdCap ≤ 16843009 * Config.rdCap := Nat.mul_le_mul_right _ (by omega)
  simp only [Config.rdCap] at *
  omega

/-- Every entry of a sequence of the planned shape has a whole FlashData frame of a payload within `PCAP`. -/
theorem SequenceShape.entry {s : State} (h : SequenceShape s) {e : SeqEntry} (he : e ∈ s.seqFrames) :
    ∃ payload, payload.length ≤ Config.pcap ∧ e.frame = encodeFrame Config.kindFlashData payload := by
  obtain ⟨us, marker, hu, hs⟩ := h
  rw [hs] at he
  rcases List.mem_append.1 he with he | he
  · obtain ⟨u, hmem, rfl⟩ := List.mem_map.1 he
    refine ⟨be32 u.1 ++ u.2, ?_, rfl⟩
    have := hu u hmem
    simp only [Config.addrPrefix, Config.pcap, List.length_append, be32_length] at *
    omega
  · obtain rfl := List.mem_singleton.1 he
    refine ⟨be32 marker ++ le32 s.appMin ++ le32 s.appMax, ?_, rfl⟩
    simp [Config.pcap]

end Sys2Proof.Machine
end

