-- ==== Sys2Proof/Laws/Commands.lean ====
section
/-! SUPPORT. What each command can do, said once: the cases of every meaning, in the order of its checks. -/

namespace Sys2Proof.Machine

/-- `FRM.ENC` (R121): a kind above 5, or the frame. -/
theorem execFrmEnc_cases (s : State) :
    (Config.maxKind < s.txKind.toNat ∧ execFrmEnc s = .next (s.withErr .badKind)) ∨
      (s.txKind.toNat ≤ Config.maxKind ∧ execFrmEnc s = frameKind s.txKind s) := by
  unfold execFrmEnc
  by_cases h : s.txKind.toNat > Config.maxKind
  · exact .inl ⟨h, by rw [if_pos h]; rfl⟩
  · exact .inr ⟨by omega, by rw [if_neg h]⟩

/-- `FRM.DEC` (R123): a decode error, or the packet. -/
theorem execFrmDec_cases (s : State) :
    (∃ e, (e = .frameShort ∨ e = .lenMismatch) ∧ decodeFrame s.rxbuf = .error e ∧
      execFrmDec s = .next { s with decValid := false, err := e }) ∨
    ∃ p, decodeFrame s.rxbuf = .ok p ∧ p.len.toNat = p.payload.length ∧ s.rxbuf.length = 6 + p.payload.length ∧
      execFrmDec s = .next ((s.storePacket p).withErr .ok) := by
  unfold execFrmDec
  rcases decodeFrame_cases s.rxbuf with ⟨-, h⟩ | ⟨-, h⟩ | ⟨p, h, h1, h2⟩
  · exact .inl ⟨_, .inl rfl, h, by rw [h]; rfl⟩
  · exact .inl ⟨_, .inr rfl, h, by rw [h]; rfl⟩
  · exact .inr ⟨p, h, h1, h2, by rw [h]; rfl⟩

theorem execFrmVal_eq (s : State) : execFrmVal s = .next (s.withErr (if s.decValid then
    validate s.packet (if s.kindEn then some s.expKind else none) (if s.payloadEn then some s.expbuf else none)
    else .noFrame)) := validateDecoded_eq _ _ s

theorem execFrmVack_eq (s : State) : execFrmVack s = .next (s.withErr (if s.decValid then
    validate s.packet (some s.expKind) (some ackPayload) else .noFrame)) := validateDecoded_eq _ _ s

/-- `IMG.CLR` (R141). -/
theorem execImgClr_cases (s : State) :
    (s.seq.active = true ∧ execImgClr s = .next (s.withErr .seqState)) ∨
      (s.seq.active = false ∧
        execImgClr s = .next { s with blk := [], imgBase := 0#32, digValid := false, err := .ok }) :=
  unlessActive_cases s _

/-- `IMG.REC` (R143). -/
theorem execImgRec_cases (s : State) :
    (s.seq.active = true ∧ execImgRec s = .next (s.withErr .seqState)) ∨
      (s.seq.active = false ∧ execImgRec s = replay s.recType s) :=
  unlessActive_cases s _

/-- `IMG.WIN` (R146). -/
theorem execImgWin_cases (s : State) :
    (s.blk = [] ∧ execImgWin s = .next (s.withErr .noData)) ∨
      (s.blk ≠ [] ∧ execImgWin s =
        .next { s with
          winMin := BitVec.ofNat 32 (deriveWindow s.blk).1
          winMax := BitVec.ofNat 32 (deriveWindow s.blk).2
          err := .ok }) := by
  unfold execImgWin
  by_cases h : s.blk.length = 0
  · exact .inl ⟨List.eq_nil_of_length_eq_zero h, by rw [if_pos h]; rfl⟩
  · exact .inr ⟨fun h0 => h (by rw [h0]; rfl), by rw [if_neg h]; rfl⟩

/-- `IMG.HASH` (R149). -/
theorem execImgHash_cases (s : State) :
    (s.winMin.toNat ≥ s.winMax.toNat ∧ execImgHash s = .next (s.withErr .invalidWindow)) ∨
      (s.winMin.toNat < s.winMax.toNat ∧ execImgHash s =
        .next { s with
          digbuf := Sha256.digest (windowImage s.blk s.winMin.toNat s.winMax.toNat)
          digValid := true
          err := .ok }) := by
  unfold execImgHash
  by_cases h : s.winMin.toNat ≥ s.winMax.toNat
  · exact .inl ⟨h, by rw [if_pos h]; rfl⟩
  · exact .inr ⟨by omega, by rw [if_neg h]; rfl⟩

theorem legalConfig_iff (maxp cs : Nat) : legalConfig maxp cs = true ↔ 12 ≤ maxp ∧ 1 ≤ cs ∧ cs ≤ maxp - 4 := by
  simp [legalConfig, Config.minMaxPayload, Config.addrPrefix, and_assoc]

/-- `MRG.START` (R166), in the order of its checks. -/
theorem execMrgStart_cases (s : State) :
    (s.seq.active = true ∧ execMrgStart s = .next (s.withErr .seqState)) ∨
    (s.seq.active = false ∧ legalConfig s.maxPayload.toNat s.chunkSize.toNat = false ∧
      execMrgStart s = .next (s.withErr .badConfig)) ∨
    (s.seq.active = false ∧ legalConfig s.maxPayload.toNat s.chunkSize.toNat = true ∧ s.blk = [] ∧
      execMrgStart s = .next (s.withErr .noData)) ∨
    (s.seq.active = false ∧ legalConfig s.maxPayload.toNat s.chunkSize.toNat = true ∧ s.blk ≠ [] ∧
      execMrgStart s = .next (s.startSequence.withErr .ok)) := by
  unfold execMrgStart
  rcases unlessActive_cases s (fun s =>
    if legalConfig s.maxPayload.toNat s.chunkSize.toNat then
      if s.blk.length = 0 then raise .noData s else succeed s.startSequence
    else raise .badConfig s) with h | ⟨ha, h⟩
  · exact .inl h
  rw [h]
  cases hc : legalConfig s.maxPayload.toNat s.chunkSize.toNat
  · exact .inr (.inl ⟨ha, rfl, by simp⟩)
  by_cases hb : s.blk.length = 0
  · exact .inr (.inr (.inl ⟨ha, rfl, List.eq_nil_of_length_eq_zero hb, by simp [hb]⟩))
  · exact .inr (.inr (.inr ⟨ha, rfl, fun h0 => hb (by rw [h0]; rfl), by simp [hb]⟩))

/-- `MRG.NEXT` (R167): the wrong state, the two stops no run reaches, or the frame. -/
theorem execMrgNext_cases (s : State) :
    (s.seq ≠ .ready ∧ execMrgNext s = .next (s.withErr .seqState)) ∨
    (s.seq = .ready ∧ s.seqFrames[s.seqIdx]? = none ∧ execMrgNext s = .fault .noSuchEntry) ∨
    (∃ e, s.seq = .ready ∧ s.seqFrames[s.seqIdx]? = some e ∧ e.frame.length < 2 ∧
      execMrgNext s = .fault .entryWithoutCrc) ∨
    ∃ e, s.seq = .ready ∧ s.seqFrames[s.seqIdx]? = some e ∧ 2 ≤ e.frame.length ∧ execMrgNext s =
      .next { s with
        txbuf := e.frame
        txCrc := rdle16 e.frame (e.frame.length - 2)
        cursor := if e.tag = .firmware then e.addr else s.cursor
        seq := .await
        err := .ok } := by
  unfold execMrgNext
  by_cases hs : s.seq = .ready
  · rw [if_neg (by simp [hs])]
    cases he : s.seqFrames[s.seqIdx]? with
    | none => exact .inr (.inl ⟨hs, rfl, rfl⟩)
    | some e =>
      by_cases hl : e.frame.length < 2
      · exact .inr (.inr (.inl ⟨e, hs, rfl, hl, by simp [hl]⟩))
      · refine .inr (.inr (.inr ⟨e, hs, rfl, by omega, ?_⟩))
        simp only [hl, if_false, succeed_eq]
        rfl
  · exact .inl ⟨hs, by rw [if_pos hs]; rfl⟩

/-- `MRG.ACK` (R168): the wrong state, a decode error, a failed check, the stop no run reaches, or a good ACK. -/
theorem execMrgAck_cases (s : State) :
    (s.seq ≠ .await ∧ execMrgAck s = .next (s.withErr .seqState)) ∨
    (∃ e, s.seq = .await ∧ (e = .frameShort ∨ e = .lenMismatch) ∧ decodeFrame s.rxbuf = .error e ∧
      execMrgAck s = .next { s with decValid := false, seq := .failed, err := e }) ∨
    ∃ p, s.seq = .await ∧ decodeFrame s.rxbuf = .ok p ∧ p.len.toNat = p.payload.length ∧
      s.rxbuf.length = 6 + p.payload.length ∧
      ((validate p (some Config.kindFlashData) (some ackPayload) ≠ .ok ∧ execMrgAck s =
          .next { s.storePacket p with seq := .failed, err := validate p (some Config.kindFlashData) (some ackPayload) }) ∨
        (validate p (some Config.kindFlashData) (some ackPayload) = .ok ∧ s.seqFrames[s.seqIdx]? = none ∧
          execMrgAck s = .fault .noSuchEntry) ∨
        ∃ e, validate p (some Config.kindFlashData) (some ackPayload) = .ok ∧ s.seqFrames[s.seqIdx]? = some e ∧
          execMrgAck s = .next (((s.storePacket p).acknowledge e).withErr .ok)) := by
  unfold execMrgAck
  by_cases hs : s.seq = .await
  · rw [if_neg (by simp [hs])]
    rcases decodeFrame_cases s.rxbuf with ⟨-, h⟩ | ⟨-, h⟩ | ⟨p, h, h1, h2⟩
    · exact .inr (.inl ⟨_, hs, .inl rfl, h, by rw [h]; rfl⟩)
    · exact .inr (.inl ⟨_, hs, .inr rfl, h, by rw [h]; rfl⟩)
    · refine .inr (.inr ⟨p, hs, h, h1, h2, ?_⟩)
      rw [h]
      have hp : (s.storePacket p).packet = p := rfl
      have hf : (s.storePacket p).seqFrames[(s.storePacket p).seqIdx]? = s.seqFrames[s.seqIdx]? := rfl
      simp only [acceptAck, hp, hf]
      cases hv : validate p (some Config.kindFlashData) (some ackPayload)
      case ok =>
        cases he : s.seqFrames[s.seqIdx]? with
        | none => exact .inr (.inl ⟨rfl, rfl, rfl⟩)
        | some e => exact .inr (.inr ⟨e, rfl, rfl, rfl⟩)
      all_goals exact .inl ⟨by simp, rfl⟩
  · exact .inl ⟨hs, by rw [if_pos hs]; rfl⟩

/-- `MRG.ABORT` (R169). -/
theorem execMrgAbort_cases (c : Byte) (s : State) :
    (s.seq.active = true ∧ execMrgAbort c s = .next { s with abortCause := c, seq := .failed, err := .hostAbort }) ∨
      (s.seq.active = false ∧ execMrgAbort c s = .next (s.withErr .seqState)) := by
  unfold execMrgAbort
  cases h : s.seq.active <;> simp [State.withErr]

/-- A kind row frames PBUF with its own code (log entry 2). -/
theorem exec_kind_rows (s : State) :
    exec .kindInvalid s = frameKind 0#8 s ∧ exec .kindFlashStart s = frameKind 1#8 s ∧
      exec .kindFlashData s = frameKind 2#8 s ∧ exec .kindFlashMac s = frameKind 3#8 s ∧
      exec .kindValidateFlash s = frameKind 4#8 s ∧ exec .kindSendSignature s = frameKind 5#8 s :=
  ⟨rfl, rfl, rfl, rfl, rfl, rfl⟩

/-- A record row replays its own type code (log entry 2). -/
theorem exec_record_rows (s : State) :
    exec .recData s = unlessActive s (replayData Config.maxBlocks) ∧ exec .recEof s = unlessActive s replayIgnored ∧
      exec .recExtSegment s = unlessActive s replaySegment ∧ exec .recStartSegment s = unlessActive s replayIgnored ∧
      exec .recExtLinear s = unlessActive s replayLinear ∧ exec .recStartLinear s = unlessActive s replayIgnored :=
  ⟨rfl, rfl, rfl, rfl, rfl, rfl⟩

end Sys2Proof.Machine
end

