-- ==== Sys2Proof/Laws/PerInstr.lean ====
section
/-! SUPPORT. Per instruction: its encoding decodes back to it (R82, R88, R94, R100). -/

namespace Sys2Proof

/-- The three fields of a command word (R81). -/
theorem opcOf_commandWord (opc imm : Byte) : opcOf (commandWord opc imm) = opc := by
  apply BitVec.eq_of_getLsbD_eq
  intro i hi
  simp only [opcOf, commandWord, BitVec.getLsbD_append, BitVec.getLsbD_extractLsb']
  simp [hi]

theorem immOf_commandWord (opc imm : Byte) : immOf (commandWord opc imm) = imm := by
  apply BitVec.eq_of_getLsbD_eq
  intro i hi
  simp only [immOf, commandWord, BitVec.getLsbD_append, BitVec.getLsbD_extractLsb']
  simp [hi]

theorem resOf_commandWord (opc imm : Byte) : resOf (commandWord opc imm) = 0#16 := by
  apply BitVec.eq_of_getLsbD_eq
  intro i hi
  simp only [resOf, commandWord, BitVec.getLsbD_append, BitVec.getLsbD_extractLsb']
  simp [show ¬ 16 + i < 8 by omega, show ¬ 16 + i - 8 < 8 by omega]

/-- A command word is its fields put together. -/
theorem commandWord_fields {w : Word} (h : resOf w = 0#16) : commandWord (opcOf w) (immOf w) = w := by
  have hres : w.extractLsb' 16 16 = 0#16 := h
  apply BitVec.eq_of_getLsbD_eq
  intro i hi
  simp only [commandWord, opcOf, immOf, BitVec.getLsbD_append, BitVec.getLsbD_extractLsb']
  by_cases h1 : i < 8
  · simp [h1]
  · by_cases h2 : i - 8 < 8
    · simp [h1, h2, show 8 + (i - 8) = i by omega]
    · have h3 := congrArg (fun v : Half => v.getLsbD (i - 16)) hres
      simp only [BitVec.getLsbD_extractLsb', BitVec.getLsbD_zero] at h3
      simp only [h1, h2, if_false, BitVec.getLsbD_zero]
      simpa [show i - 16 < 16 by omega, show 16 + (i - 16) = i by omega] using h3.symm

end Sys2Proof

namespace Sys2Proof.Laws.RoundTrip

/-- The instruction's encoding decodes to the instruction. -/
def Statement (i : Instr) : Prop := decodeEncoded (encode i) = .instr i

theorem crcInit : Statement .crcInit := by unfold Statement; decide

theorem crcByte (imm : Byte) : Statement (.crcByte imm) := by
  simp only [Statement, encode, decodeEncoded, decode, resOf_commandWord, opcOf_commandWord, immOf_commandWord]
  rfl

theorem crcBuf : Statement .crcBuf := by unfold Statement; decide

theorem frmEnc : Statement .frmEnc := by unfold Statement; decide

theorem frmDec : Statement .frmDec := by unfold Statement; decide

theorem frmVal : Statement .frmVal := by unfold Statement; decide

theorem frmVack : Statement .frmVack := by unfold Statement; decide

theorem imgClr : Statement .imgClr := by unfold Statement; decide

theorem imgRec : Statement .imgRec := by unfold Statement; decide

theorem imgWin : Statement .imgWin := by unfold Statement; decide

theorem imgHash : Statement .imgHash := by unfold Statement; decide

theorem mrgStart : Statement .mrgStart := by unfold Statement; decide

theorem mrgNext : Statement .mrgNext := by unfold Statement; decide

theorem mrgAck : Statement .mrgAck := by unfold Statement; decide

theorem mrgAbort (imm : Byte) : Statement (.mrgAbort imm) := by
  simp only [Statement, encode, decodeEncoded, decode, resOf_commandWord, opcOf_commandWord, immOf_commandWord]
  rfl

theorem kindInvalid : Statement .kindInvalid := by unfold Statement; decide

theorem kindFlashStart : Statement .kindFlashStart := by unfold Statement; decide

theorem kindFlashData : Statement .kindFlashData := by unfold Statement; decide

theorem kindFlashMac : Statement .kindFlashMac := by unfold Statement; decide

theorem kindValidateFlash : Statement .kindValidateFlash := by unfold Statement; decide

theorem kindSendSignature : Statement .kindSendSignature := by unfold Statement; decide

theorem recData : Statement .recData := by unfold Statement; decide

theorem recExtSegment : Statement .recExtSegment := by unfold Statement; decide

theorem recExtLinear : Statement .recExtLinear := by unfold Statement; decide

theorem recEof : Statement .recEof := by unfold Statement; decide

theorem recStartSegment : Statement .recStartSegment := by unfold Statement; decide

theorem recStartLinear : Statement .recStartLinear := by unfold Statement; decide

end Sys2Proof.Laws.RoundTrip
end

