-- ==== Sys2Proof/Tests/Slice0.lean ====
section
/-! SUPPORT. The model's own tests. Expected values are those of spec/95_test_vectors.md, named V-…, or words written out from the encodings of R82, R88 and R94. After them, a witness for the hypotheses of every obligation that has any. -/

namespace Sys2Proof.Machine.Tests

/-- The outcome is a next state of which `p` holds. -/
def nextIs (o : Outcome) (p : State → Bool) : Bool :=
  match o with
  | .next t => p t
  | .fault _ => false
  | .refused _ => false

/-- The fault of an outcome, if it is one. -/
def faultOf (o : Outcome) : Option Fault :=
  match o with
  | .next _ => none
  | .fault f => some f
  | .refused _ => none

/-- A frame in RXBUF. -/
def received (f : List Byte) : State := { State.reset with rxbuf := f }

/-- The FlashData ACK decoded (V-FRM-1). -/
def decodedAck : State :=
  { State.reset with
    rxMarker := 0xA5#8, rxKind := 2#8, rxHdrLen := 1#16, rxCrc := 0x28F5#16, rpbuf := [0x55#8], decValid := true }

/-- One block of one byte that ends at 0xFFFFFFFF. -/
def topBlock : Block := { addr := 0xFFFFFFFE#32, data := [0xAA#8] }

/-- A store of that block, no sequence started. -/
def loaded : State := { State.reset with blk := [topBlock] }

/-- A sequence of one DATA and one META entry, `idx` entries acknowledged. -/
def started (q : SeqState) (idx : Nat) : State :=
  { loaded.startSequence with seq := q, seqIdx := idx, progSent := if idx = 0 then 0#32 else 1#32 }

/-- A sequence that awaits an ACK, with a response in RXBUF. -/
def awaiting (idx : Nat) (response : List Byte) : State := { started .await idx with rxbuf := response }

/-! ### Words of the opcode map, bit by bit (R81, R82, R88, R94) -/

theorem test_decode_crc_init : decode 0b0000000000000000_00000000_00000001#32 = .instr .crcInit := by decide

theorem test_decode_crc_byte : decode 0b0000000000000000_11111111_00000010#32 = .instr (.crcByte 255#8) := by decide

theorem test_decode_crc_buf : decode 0b0000000000000000_00000000_00000011#32 = .instr .crcBuf := by decide

theorem test_decode_frm :
    decode 0b0000000000000000_00000000_00010000#32 = .instr .frmEnc ∧
      decode 0b0000000000000000_00000000_00010001#32 = .instr .frmDec ∧
      decode 0b0000000000000000_00000000_00010010#32 = .instr .frmVal ∧
      decode 0b0000000000000000_00000000_00010011#32 = .instr .frmVack := by decide

theorem test_decode_img :
    decode 0b0000000000000000_00000000_00100000#32 = .instr .imgClr ∧
      decode 0b0000000000000000_00000000_00100001#32 = .instr .imgRec ∧
      decode 0b0000000000000000_00000000_00100010#32 = .instr .imgWin ∧
      decode 0b0000000000000000_00000000_00100011#32 = .instr .imgHash := by decide

theorem test_decode_mrg :
    decode 0b0000000000000000_00000000_00110000#32 = .instr .mrgStart ∧
      decode 0b0000000000000000_00000000_00110001#32 = .instr .mrgNext ∧
      decode 0b0000000000000000_00000000_00110010#32 = .instr .mrgAck ∧
      decode 0b0000000000000000_10000001_00110011#32 = .instr (.mrgAbort 0x81#8) := by decide

theorem test_decode_kinds :
    [0b00000000#8, 0b00000001#8, 0b00000010#8, 0b00000011#8, 0b00000100#8, 0b00000101#8, 0b00000110#8].map decodeKind =
      [.instr .kindInvalid, .instr .kindFlashStart, .instr .kindFlashData, .instr .kindFlashMac, .instr .kindValidateFlash,
        .instr .kindSendSignature, .illegal .unnamedKind] := by decide

theorem test_decode_records :
    [0b00000000#8, 0b00000001#8, 0b00000010#8, 0b00000011#8, 0b00000100#8, 0b00000101#8, 0b00000110#8].map decodeRecord =
      [.instr .recData, .instr .recEof, .instr .recExtSegment, .instr .recStartSegment, .instr .recExtLinear,
        .instr .recStartLinear, .illegal .unnamedRecord] := by decide

/-- The three reasons of R83, RES first (R100). -/
theorem test_decode_rejects_by_name :
    decode 0x00000000#32 = .illegal .unknownOpcode ∧ decode 0x00000034#32 = .illegal .unknownOpcode ∧
      decode 0x00010001#32 = .illegal .reservedBits ∧ decode 0x80000002#32 = .illegal .reservedBits ∧
      decode 0x00000130#32 = .illegal .immediateNotZero := by decide

/-! ### WellFormed: an ill-formed action for each check (R61, R62) -/

theorem test_wellFormed_refuses_misaligned_write : (HostAction.writeReg 0x02#8 0#32).wellFormed = false := by decide

theorem test_wellFormed_refuses_misaligned_read : (HostAction.readReg 0xFF#8).wellFormed = false := by decide

theorem test_wellFormed_refuses_load_of_txbuf : (HostAction.load .txbuf []).wellFormed = false := by decide

theorem test_wellFormed_refuses_load_above_capacity :
    (HostAction.load .rdbuf (List.replicate 256 0#8)).wellFormed = false := by decide +kernel

theorem test_wellFormed_accepts :
    (HostAction.writeReg 0x80#8 0#32).wellFormed = true ∧ (HostAction.readReg 0xFC#8).wellFormed = true ∧
      (HostAction.load .rdbuf (List.replicate 255 0#8)).wellFormed = true ∧ (HostAction.readBuf .txbuf).wellFormed = true ∧
      HostAction.reset.wellFormed = true := by decide +kernel

/-! ### The host port -/

/-- V-FRM-D13: a write of 0x105 to `TX_KIND` reads back 0x05. -/
theorem test_tx_kind_discards_high_bits : readReg .txKind (writeReg .txKind 0x105#32 State.reset) = 5#32 := by decide

/-- The step stops at an access R61 gives no step. -/
theorem test_misaligned_access_faults :
    faultOf (step (State.reset.withPending [.writeReg 0x01#8 0#32])) = some .misalignedRegister := by decide

/-- An illegal word is stored and reported, and nothing else changes (R21, R83). -/
theorem test_illegal_word :
    nextIs (step (State.reset.withPending [.writeReg 0x00#8 0xFFFFFFFF#32]))
      (fun t => t == { State.reset with cmd := 0xFFFFFFFF#32, err := .illegalCmd }) = true := by decide

/-- The lines of V-FRM-1 as host actions (R97, R98): `VALP 2` writes 0x0203 to `EXP_CTRL` and issues FRM.VAL. -/
theorem test_valp_expands : (ProgramLine.valp 2#8).expand = [.writeReg 0x24#8 0x0203#32, .writeReg 0x00#8 0x12#32] := by decide

/-- A written command line (R96). -/
theorem test_command_lines :
    commandOfLine "  CRC.BYTE '1' ; the digit".toList = some (.crcByte 0x31#8) ∧
      commandOfLine "MRG.ABORT 0xFF".toList = some (.mrgAbort 255#8) ∧ commandOfLine "MRG.ABORT 256".toList = none ∧
      commandOfLine "IMG.HASH".toList = some .imgHash := by decide +kernel

/-! ### The commands -/

/-- V-CRC-D1. -/
theorem test_crc_init : nextIs (exec .crcInit { State.reset with crcAcc := 0#16 }) (fun t => t.crcAcc == 0x1D0F#16) = true := by
  decide

/-- V-CRC-D2. -/
theorem test_crc_byte : nextIs (exec (.crcByte 0x31#8) State.reset) (fun t => t.crcAcc == 0xEAEE#16) = true := by decide +kernel

/-- V-CRC-D7: a zero polynomial is a pure shift. -/
theorem test_crc_byte_zero_poly :
    nextIs (exec (.crcByte 0xAB#8) { State.reset with crcPoly := 0#16 }) (fun t => t.crcAcc == 0x0F00#16) = true := by decide +kernel

/-- V-CRC-D6. -/
theorem test_crc_buf :
    nextIs (exec .crcBuf { State.reset with
        crcPoly := 0x8005#16, crcInit := 0#16, crcAcc := 0x1234#16,
        pbuf := [0x31#8, 0x32#8, 0x33#8, 0x34#8, 0x35#8, 0x36#8, 0x37#8, 0x38#8, 0x39#8] })
      (fun t => t.crcAcc == 0xFEE8#16) = true := by decide +kernel

/-- V-CRC-D12: from `CRC_INIT`, not from `CRC_ACC`. -/
theorem test_crc_buf_empty :
    nextIs (exec .crcBuf { State.reset with crcAcc := 0x1234#16 }) (fun t => t.crcAcc == 0x1D0F#16) = true := by decide

/-- V-FRM-D10, with the polynomial register changed as in V-CRC-D14. -/
theorem test_frm_enc :
    nextIs (exec .frmEnc { State.reset with crcPoly := 0x1234#16, txKind := 3#8, pbuf := [1#8, 2#8, 3#8] })
      (fun t => t.txbuf == [0xA5#8, 3#8, 3#8, 0#8, 1#8, 2#8, 3#8, 0xD9#8, 0xE5#8] && t.txCrc == 0xE5D9#16) = true := by
  decide +kernel

/-- V-FRM-D11. -/
theorem test_frm_enc_bad_kind :
    nextIs (exec .frmEnc { State.reset with txKind := 6#8 })
      (fun t => t == { State.reset with txKind := 6#8, err := .badKind }) = true := by decide

/-- V-FRM-D20: any marker, kind and CRC decode. -/
theorem test_frm_dec :
    nextIs (exec .frmDec (received [0#8, 7#8, 1#8, 0#8, 0x55#8, 0#8, 0#8]))
      (fun t => readReg .rxHdr t == 0x00010700#32 && t.rpbuf == [0x55#8] && t.decValid) = true := by decide +kernel

/-- V-FRM-D18: one trailing byte. -/
theorem test_frm_dec_trailing_byte :
    nextIs (exec .frmDec (received [0xA5#8, 2#8, 1#8, 0#8, 0x55#8, 0xF5#8, 0x28#8, 0#8]))
      (fun t => t.err == .lenMismatch && !t.decValid) = true := by decide

/-- V-FRM-3: with kind and payload expected, the payload check comes before the CRC check. -/
theorem test_frm_val_payload_first :
    nextIs (exec .frmVal { decodedAck with
        rpbuf := [0x54#8], kindEn := true, payloadEn := true, expKind := 2#8, expbuf := [0x55#8] })
      (fun t => t.err == .unexpPayload) = true := by decide

/-- V-FRM-3: without expectations the CRC check fails. -/
theorem test_frm_val_crc :
    nextIs (exec .frmVal { decodedAck with rpbuf := [0x54#8] }) (fun t => t.err == .crcMismatch) = true := by decide +kernel

/-- V-FRM-D24. -/
theorem test_frm_vack : nextIs (exec .frmVack { decodedAck with expKind := 2#8 }) (fun t => t.err == .ok) = true := by
  decide +kernel

/-- V-FRM-D25. -/
theorem test_frm_vack_kind :
    nextIs (exec .frmVack { decodedAck with expKind := 1#8 }) (fun t => t.err == .unexpKind) = true := by decide

/-- V-FRM-D1 to V-FRM-D6: the frames of the six kinds with an empty payload. -/
theorem test_kind_rows :
    nextIs (exec .kindInvalid State.reset) (fun t => t.txbuf == [0xA5#8, 0#8, 0#8, 0#8, 0x23#8, 0x58#8]) = true ∧
      nextIs (exec .kindFlashStart State.reset) (fun t => t.txbuf == [0xA5#8, 1#8, 0#8, 0#8, 0x13#8, 0x6F#8]) = true ∧
      nextIs (exec .kindFlashData State.reset) (fun t => t.txbuf == [0xA5#8, 2#8, 0#8, 0#8, 0x43#8, 0x36#8]) = true ∧
      nextIs (exec .kindFlashMac State.reset) (fun t => t.txbuf == [0xA5#8, 3#8, 0#8, 0#8, 0x73#8, 0x01#8]) = true ∧
      nextIs (exec .kindValidateFlash State.reset) (fun t => t.txbuf == [0xA5#8, 4#8, 0#8, 0#8, 0xE3#8, 0x84#8]) = true ∧
      nextIs (exec .kindSendSignature State.reset) (fun t => t.txbuf == [0xA5#8, 5#8, 0#8, 0#8, 0xD3#8, 0xB3#8]) = true := by
  decide +kernel

/-- V-IMG-D13. -/
theorem test_img_clr :
    nextIs (exec .imgClr { loaded with imgBase := 0x08000000#32, digValid := true, winMin := 1#32 })
      (fun t => t == { State.reset with winMin := 1#32 }) = true := by decide

/-- V-IMG-D14. -/
theorem test_img_clr_active : nextIs (exec .imgClr (started .ready 0)) (fun t => t.err == .seqState && t.blk == [topBlock]) = true := by
  decide +kernel

/-- V-IMG-D9: the end would be 0x100000000. -/
theorem test_img_rec_range :
    nextIs (exec .imgRec { State.reset with
        imgBase := 0xFFFF0000#32, recOffset := 0xFF01#16, rdbuf := List.replicate 255 0#8 })
      (fun t => t.err == .addrRange && t.blk == []) = true := by decide +kernel

/-- V-IMG-D4: only `REC_VALUE[15:0]` is used. -/
theorem test_img_rec_linear :
    nextIs (exec .imgRec (writeReg .recValue 0x12345678#32 { State.reset with recType := 4#8 }))
      (fun t => t.imgBase == 0x56780000#32) = true := by decide

/-- V-IMG-D12, as the record row of type 0x00: an empty block. -/
theorem test_rec_data :
    nextIs (exec .recData { State.reset with recOffset := 0x10#16 }) (fun t => t.blk == [{ addr := 0x10#32, data := [] }]) = true := by
  decide

/-- V-IMG-D3. -/
theorem test_rec_ext_segment :
    nextIs (exec .recExtSegment { State.reset with recValue := 0xFFFF#16 }) (fun t => t.imgBase == 0x000FFFF0#32) = true := by decide

/-- V-IMG-D1. -/
theorem test_rec_ext_linear :
    nextIs (exec .recExtLinear { State.reset with recValue := 0x0800#16 }) (fun t => t.imgBase == 0x08000000#32) = true := by decide

/-- V-IMG-D7 and V-IMG-D8: ignored, the completion code 0. -/
theorem test_rec_ignored :
    nextIs (exec .recEof { State.reset with err := .noData }) (fun t => t == State.reset) = true ∧
      nextIs (exec .recStartSegment { State.reset with err := .noData }) (fun t => t == State.reset) = true ∧
      nextIs (exec .recStartLinear { State.reset with err := .noData }) (fun t => t == State.reset) = true := by decide

/-- V-IMG-D16. -/
theorem test_img_win :
    nextIs (exec .imgWin { State.reset with
        blk := [{ addr := 0x100#32, data := [1#8, 2#8, 3#8, 4#8] }, { addr := 0x104#32, data := [5#8, 6#8] },
          { addr := 0x200#32, data := [7#8, 8#8, 9#8] }] })
      (fun t => t.winMin == 0x100#32 && t.winMax == 0x203#32) = true := by decide

/-- V-IMG-D15. -/
theorem test_img_win_empty : nextIs (exec .imgWin State.reset) (fun t => t.err == .noData) = true := by decide

/-- V-IMG-D18: both blocks straddle an edge and are cut. -/
theorem test_window_image_cuts :
    windowImage [{ addr := 8#32, data := [1#8, 2#8, 3#8, 4#8] }, { addr := 13#32, data := [9#8, 9#8, 9#8] }] 10 15 =
      [3#8, 4#8, 0xFF#8, 9#8, 9#8] := by decide

set_option maxRecDepth 100000 in
/-- V-IMG-1, the source's own example. -/
theorem test_img_hash :
    nextIs (exec .imgHash { State.reset with
        blk := [{ addr := 10#32, data := [1#8, 2#8, 3#8] }], winMin := 10#32, winMax := 15#32 })
      (fun t => t.digValid && t.digbuf ==
        [0x40#8, 0x13#8, 0x23#8, 0xC1#8, 0xA7#8, 0x90#8, 0x44#8, 0xB1#8, 0xEE#8, 0xCA#8, 0x8D#8, 0x4C#8, 0x1C#8, 0xB5#8, 0x36#8,
          0xA4#8] ++
        [0xA2#8, 0x1D#8, 0xC8#8, 0x78#8, 0x6A#8, 0xB7#8, 0x58#8, 0x4B#8, 0x26#8, 0xE4#8, 0xAD#8, 0x06#8, 0x2D#8, 0xF2#8, 0x8E#8,
          0xB3#8]) = true := by decide +kernel

/-- V-IMG-D25. -/
theorem test_img_hash_empty_window :
    nextIs (exec .imgHash State.reset) (fun t => t == { State.reset with err := .invalidWindow }) = true := by decide

/-- V-MRG-D6: the frames of a block of 5 bytes in chunks of 2. -/
theorem test_mrg_start :
    nextIs (exec .mrgStart { State.reset with
        blk := [{ addr := 0#32, data := [1#8, 2#8, 3#8, 4#8, 5#8] }], maxPayload := 12#16, chunkSize := 2#16 })
      (fun t => t.seqFrames.map SeqEntry.frame ==
        [[0xA5#8, 2#8, 6#8, 0#8, 0#8, 0#8, 0#8, 0#8, 1#8, 2#8, 0x6F#8, 0xCE#8],
          [0xA5#8, 2#8, 6#8, 0#8, 0#8, 0#8, 0#8, 2#8, 3#8, 4#8, 0xAB#8, 0xA6#8],
          [0xA5#8, 2#8, 5#8, 0#8, 0#8, 0#8, 0#8, 4#8, 5#8, 0xED#8, 0xD1#8],
          [0xA5#8, 2#8, 12#8, 0#8, 0#8, 0#8, 0#8, 0#8, 0#8, 0#8, 0#8, 0#8, 5#8, 0#8, 0#8, 0#8, 0x6A#8, 0xC4#8]]
        && t.appMax == 5#32 && t.progTotal == 5#32 && readReg .status t == 0x100#32) = true := by decide +kernel

/-- V-MRG-D15: the configuration is checked before the block store. -/
theorem test_mrg_start_config_first :
    nextIs (exec .mrgStart { State.reset with maxPayload := 11#16, chunkSize := 7#16 }) (fun t => t.err == .badConfig) = true := by
  decide

/-- V-MRG-D2, the first frame, for a DATA entry: the cursor at its address. -/
theorem test_mrg_next :
    nextIs (exec .mrgNext { State.reset with seq := .ready, seqFrames := [dataEntry (0x20#32, [0xAA#8])] })
      (fun t => t.txbuf == [0xA5#8, 2#8, 5#8, 0#8, 0#8, 0#8, 0#8, 0x20#8, 0xAA#8, 0xCA#8, 0x5F#8] && t.txCrc == 0x5FCA#16
        && t.cursor == 0x20#32 && t.seq == .await) = true := by decide +kernel

/-- V-MRG-D17. -/
theorem test_mrg_next_idle :
    nextIs (exec .mrgNext State.reset) (fun t => t == { State.reset with err := .seqState }) = true := by decide

/-- R168: a good ACK of the DATA entry counts its byte and moves the cursor past it. -/
theorem test_mrg_ack :
    nextIs (exec .mrgAck (awaiting 0 flashDataAck))
      (fun t => t.progSent == 1#32 && t.cursor == 0xFFFFFFFF#32 && t.seqIdx == 1 && t.seq == .ready) = true := by decide +kernel

/-- V-E2E-1 inside a sequence: an ACK of kind FlashStart fails it (V-MRG-D25, V-FRM-D7). -/
theorem test_mrg_ack_wrong_kind :
    nextIs (exec .mrgAck (awaiting 0 [0xA5#8, 1#8, 1#8, 0#8, 0x55#8, 0x29#8, 0xB3#8]))
      (fun t => t.err == .unexpKind && t.seq == .failed && t.rxKind == 1#8 && t.progSent == 0#32) = true := by decide +kernel

/-- R169. -/
theorem test_mrg_abort :
    nextIs (exec (.mrgAbort 3#8) (started .await 0)) (fun t => t.abortCause == 3#8 && readReg .status t == 0x410#32) = true := by
  decide +kernel

/-- V-MRG-D22. -/
theorem test_mrg_abort_idle :
    nextIs (exec (.mrgAbort 0xFF#8) State.reset) (fun t => t == { State.reset with err := .seqState }) = true := by decide

/-! ### Witnesses: states and operands that meet the hypotheses of the obligations -/

/-- The invariant holds of a state with a started sequence: READY, AWAIT and FAILED with none or one entry acknowledged,
DONE with both. -/
theorem started_inv {q : SeqState} {idx : Nat}
    (h : (q = .ready ∨ q = .await ∨ q = .failed) ∧ idx < 2 ∨ q = .done ∧ idx = 2) : (started q idx).Inv := by
  have hlen : (started q idx).seqFrames.length = 2 := rfl
  have hidx : (started q idx).seqIdx = idx := rfl
  have hq : (started q idx).seq = q := rfl
  have hne : (started q idx).seqFrames ≠ [] := by intro h0; rw [h0] at hlen; simp at hlen
  refine ⟨by rfl, ?_, ?_, (by decide : (0#32).toNat ≤ 0xFFFF0000), (by intro h; cases h), .inl rfl, by omega, ?_, ?_, ?_, ?_, rfl, ?_,
    (by intro h; cases h)⟩
  · show 1 ≤ Config.maxBlocksLessOne.val + 1; omega
  · intro b hb
    obtain rfl := List.mem_singleton.1 hb
    decide
  · rw [hlen, hidx, hq]
    rcases h with ⟨rfl | rfl | rfl, h⟩ | ⟨rfl, h⟩ <;> simp <;> omega
  · rw [hq]
    refine ⟨fun h0 => absurd h0 hne, ?_⟩
    rcases h with ⟨rfl | rfl | rfl, h⟩ | ⟨rfl, h⟩ <;> simp
  · intro _
    exact ⟨[(0xFFFFFFFE#32, [0xAA#8])], 0#32, by decide, rfl⟩
  · rcases h with ⟨_, h⟩ | ⟨_, rfl⟩
    · interval_cases idx <;> rfl
    · rfl
  · intro _; exact ⟨rfl, rfl, rfl⟩

theorem loaded_inv : loaded.Inv := by
  refine ⟨by decide, ?_, by decide, by decide, by decide, .inl rfl, by decide, by decide, by decide, ?_, rfl, rfl, ?_, (by intro h; cases h)⟩
  · show 1 ≤ Config.maxBlocksLessOne.val + 1; omega
  · intro h; exact absurd rfl h
  · intro h; cases h

/-- What a host action leaves to do, for the witnesses of the port. -/
def facing (a : HostAction) : State := State.reset.withPending [a]

/-- O3: one word for each condition of R83. -/
theorem witness_IllegalWordsOnlyRaiseIllegalCmd :
    (∀ w : Word, (facing (.writeReg 0x00#8 w)).port.pending = .writeReg (Reg.offset .cmd) w :: []) ∧
      ¬ legalWord 0x00000000#32 ∧ ¬ legalWord 0x00010001#32 ∧ ¬ legalWord 0x00000101#32 :=
  ⟨fun _ => rfl, by unfold legalWord; decide, by unfold legalWord; decide, by unfold legalWord; decide⟩

theorem witness_StepRunsTheDecodedCommand :
    (facing (.writeReg 0x00#8 0x00003102#32)).port.pending = .writeReg (Reg.offset .cmd) 0x00003102#32 :: [] ∧
      decode 0x00003102#32 = .instr (.crcByte 0x31#8) := by decide

theorem witness_PlacedTableWordRunsNext :
    decodeTableWord 32 0x0000FF33 = some (.mrgAbort 0xFF#8) ∧ decodeTableWord 8 5 = some .recStartLinear ∧
      decodeTableWord 8 0 = some .recData := by decide

/-- The first and the last writable and unwritable offsets, and the unmapped ones beside the map. -/
theorem witness_HostRegisterAccess :
    Reg.recCtrl.writable = true ∧ Reg.cmd ≠ Reg.status ∧
      (facing (.writeReg 0x08#8 1#32)).port.pending = .writeReg 0x08#8 1#32 :: [] ∧ (0x08#8 : Byte).toNat % 4 = 0 ∧
      Reg.ofOffset 0x08#8 = some .crcAcc ∧ Reg.crcAcc ≠ .cmd ∧ Reg.crcAcc.writable = true ∧
      (facing (.writeReg 0x48#8 1#32)).port.pending = .writeReg 0x48#8 1#32 :: [] ∧ Reg.ofOffset 0x48#8 = some .metaMarker ∧
      (facing (.writeReg 0x80#8 1#32)).port.pending = .writeReg 0x80#8 1#32 :: [] ∧ Reg.ofOffset 0x80#8 = some .rdLen ∧
      Reg.rdLen.writable = false ∧ Reg.ofOffset 0x04#8 = some .status ∧ Reg.status.writable = false ∧
      (facing (.writeReg 0x84#8 1#32)).port.pending = .writeReg 0x84#8 1#32 :: [] ∧ Reg.ofOffset 0x84#8 = none ∧
      (facing (.readReg 0x80#8)).port.pending = .readReg 0x80#8 :: [] ∧ (0x80#8 : Byte).toNat % 4 = 0 ∧
      (facing (.readReg 0xFC#8)).port.pending = .readReg 0xFC#8 :: [] ∧ (0xFC#8 : Byte).toNat % 4 = 0 ∧
      Reg.ofOffset 0xFC#8 = none := by decide +kernel

theorem witness_MisalignedRegisterAccessHasNoStep :
    (0x01#8 : Byte).toNat % 4 ≠ 0 ∧ (facing (.writeReg 0x01#8 0#32)).port.pending = .writeReg 0x01#8 0#32 :: [] ∧
      (0xFF#8 : Byte).toNat % 4 ≠ 0 ∧ (facing (.readReg 0xFF#8)).port.pending = .readReg 0xFF#8 :: [] := by decide

/-- A load that fills RDBUF, one byte more, an empty load of TXBUF, and a buffer read. -/
theorem witness_HostBufferAccess :
    ((facing (.load .rdbuf (List.replicate 255 7#8))).port.pending = .load .rdbuf (List.replicate 255 7#8) :: [] ∧
        Buffer.rdbuf ∈ [Buffer.pbuf, .rxbuf, .expbuf, .rdbuf] ∧ (List.replicate 255 7#8).length ≤ Buffer.rdbuf.capacity) ∧
      ((facing (.load .rdbuf (List.replicate 256 7#8))).port.pending = .load .rdbuf (List.replicate 256 7#8) :: [] ∧
        ¬ (List.replicate 256 7#8).length ≤ Buffer.rdbuf.capacity) ∧
      ((facing (.load .txbuf [])).port.pending = .load .txbuf [] :: [] ∧
        Buffer.txbuf ∉ [Buffer.pbuf, .rxbuf, .expbuf, .rdbuf]) ∧
      (facing (.readBuf .digbuf)).port.pending = .readBuf .digbuf :: [] := by
  refine ⟨⟨rfl, by decide, ?_⟩, ⟨rfl, ?_⟩, ⟨rfl, by decide⟩, rfl⟩ <;>
    simp only [List.length_replicate, Buffer.capacity] <;> decide

theorem witness_ResetGivesEveryResetValue : (facing .reset).port.pending = .reset :: [] := rfl

theorem witness_CrcByteStepsTheAccumulator : ({ State.reset with crcPoly := 0#16 } : State).crcPoly = 0#16 := rfl

theorem witness_CrcBufComputesTheCrcOfPbuf : State.reset.pbuf = [] := rfl

theorem witness_OtherCommandsIgnoreTheCrcRegisters :
    ∀ i ∈ [Instr.frmEnc, .mrgAck, .recData, .kindInvalid], usesCrcRegisters i = false ∧ ∃ t, exec i State.reset = .next t := by
  intro i hi
  simp only [List.mem_cons, List.not_mem_nil, or_false] at hi
  rcases hi with rfl | rfl | rfl | rfl
  · exact ⟨rfl, _, rfl⟩
  · exact ⟨rfl, _, rfl⟩
  · rcases replayData_cases Config.maxBlocks State.reset with ⟨_, h⟩ | ⟨_, _, h⟩ | ⟨_, _, h⟩ <;> exact ⟨rfl, _, h⟩
  · exact ⟨rfl, _, rfl⟩

theorem witness_CrcCommandsFrame :
    ∀ i ∈ [Instr.crcInit, .crcByte 255#8, .crcBuf], usesCrcRegisters i = true ∧ ∃ t, exec i State.reset = .next t := by
  intro i hi
  simp only [List.mem_cons, List.not_mem_nil, or_false] at hi
  rcases hi with rfl | rfl | rfl <;> exact ⟨rfl, _, rfl⟩

/-- The kinds 5 and 6 on either side of the bound. -/
theorem witness_FrmEncWritesTheFrame :
    Memory.wf { State.reset with txKind := 5#8 } = true ∧ (5#8 : Byte).toNat ≤ 5 ∧
      Memory.wf { State.reset with txKind := 6#8 } = true ∧ 5 < (6#8 : Byte).toNat := by decide

theorem witness_KindRowsFrameWithTheirCode :
    ∀ k ∈ [0#8, 1#8, 2#8, 3#8, 4#8, 5#8], Memory.wf { State.reset with txKind := k } = true ∧
      ({ State.reset with txKind := k } : State).txKind = k := by decide

/-- Five bytes; six bytes with a length field of 1, and with one of 0. -/
theorem witness_FrmDecTakesTheFrameApart :
    (received [0xA5#8, 2#8, 0#8, 0#8, 0x43#8]).rxbuf.length < 6 ∧
      ((received [0xA5#8, 2#8, 1#8, 0#8, 0x43#8, 0x36#8]).rxbuf = [0xA5#8, 2#8, 1#8, 0#8] ++ [] ++ [0x43#8, 0x36#8] ∧
        (1#8 : Byte).toNat + 256 * (0#8 : Byte).toNat ≠ ([] : List Byte).length) ∧
      ((received [0xA5#8, 2#8, 0#8, 0#8, 0x43#8, 0x36#8]).rxbuf = [0xA5#8, 2#8, 0#8, 0#8] ++ [] ++ [0x43#8, 0x36#8] ∧
        (0#8 : Byte).toNat + 256 * (0#8 : Byte).toNat = ([] : List Byte).length) := by decide

/-- The CRC of the FlashData ACK, as V-FRM-1 gives it. -/
theorem ack_crc : frameCrc ([0xA5#8, 2#8] ++ le16 1#16 ++ [0x55#8]) = 0x28F5#16 := by decide +kernel

/-- A state for each clause of `FRM.VAL`: no packet, a bad marker, a wrong kind, a wrong payload, a wrong CRC, all good. -/
theorem witness_FrmValChecksInOrder :
    State.reset.decValid = false ∧
      (let s := { decodedAck with rxMarker := 0x5A#8 }; s.decValid = true ∧ ¬ s.rxMarker = 0xA5#8) ∧
      (let s := { decodedAck with kindEn := true }; s.decValid = true ∧ s.rxMarker = 0xA5#8 ∧
        ¬ (s.kindEn = true → s.rxKind = s.expKind)) ∧
      (let s := { decodedAck with payloadEn := true }; s.decValid = true ∧ s.rxMarker = 0xA5#8 ∧
        (s.kindEn = true → s.rxKind = s.expKind) ∧ ¬ (s.payloadEn = true → s.rpbuf = s.expbuf)) ∧
      (let s := { decodedAck with rxCrc := 0x29F5#16 }; s.decValid = true ∧ s.rxMarker = 0xA5#8 ∧
        (s.kindEn = true → s.rxKind = s.expKind) ∧ (s.payloadEn = true → s.rpbuf = s.expbuf) ∧
        ¬ frameCrc ([s.rxMarker, s.rxKind] ++ le16 s.rxHdrLen ++ s.rpbuf) = s.rxCrc) ∧
      (let s := { decodedAck with kindEn := true, payloadEn := true, expKind := 2#8, expbuf := [0x55#8] };
        s.decValid = true ∧ s.rxMarker = 0xA5#8 ∧ (s.kindEn = true → s.rxKind = s.expKind) ∧
        (s.payloadEn = true → s.rpbuf = s.expbuf) ∧ frameCrc ([s.rxMarker, s.rxKind] ++ le16 s.rxHdrLen ++ s.rpbuf) = s.rxCrc) := by
  decide +kernel

/-- The same for `FRM.VACK`; a payload of two bytes is no ACK (V-FRM-D29). -/
theorem witness_FrmVackChecksAnAck :
    State.reset.decValid = false ∧
      (let s := { decodedAck with rxMarker := 0x5A#8 }; s.decValid = true ∧ ¬ s.rxMarker = 0xA5#8) ∧
      (decodedAck.decValid = true ∧ decodedAck.rxMarker = 0xA5#8 ∧ ¬ decodedAck.rxKind = decodedAck.expKind) ∧
      (let s := { decodedAck with expKind := 2#8, rpbuf := [0x55#8, 0x55#8] }; s.decValid = true ∧ s.rxMarker = 0xA5#8 ∧
        s.rxKind = s.expKind ∧ ¬ s.rpbuf = [0x55#8]) ∧
      (let s := { decodedAck with expKind := 2#8, rxCrc := 0x29F5#16 }; s.decValid = true ∧ s.rxMarker = 0xA5#8 ∧
        s.rxKind = s.expKind ∧ s.rpbuf = [0x55#8] ∧ ¬ frameCrc ([s.rxMarker, s.rxKind] ++ le16 s.rxHdrLen ++ s.rpbuf) = s.rxCrc) ∧
      (let s := { decodedAck with expKind := 2#8 }; s.decValid = true ∧ s.rxMarker = 0xA5#8 ∧ s.rxKind = s.expKind ∧
        s.rpbuf = [0x55#8] ∧ frameCrc ([s.rxMarker, s.rxKind] ++ le16 s.rxHdrLen ++ s.rpbuf) = s.rxCrc) := by
  decide +kernel

/-- The largest payload and kind. -/
theorem witness_EncodedFramesDecodeAndValidate :
    ((5#8 : Byte).toNat ≤ 5 ∧ (List.replicate 65535 0#8).length ≤ 65535 ∧ (some 5#8 = some 5#8 ∨ some 5#8 = none) ∧
        ((none : Option (List Byte)) = some (List.replicate 65535 0#8) ∨ (none : Option (List Byte)) = none)) ∧
      Memory.wf { State.reset with txKind := 5#8 } = true ∧ ({ State.reset with txKind := 5#8 } : State).txKind.toNat ≤ 5 :=
  ⟨⟨by decide, by rw [List.length_replicate], .inl rfl, .inr rfl⟩, by decide, by decide⟩

/-- The last covered bit of a frame of one payload byte. -/
theorem witness_SingleBitErrorsAreCaught : [0x55#8].length ≤ 65535 ∧ 4 < 4 + [0x55#8].length ∧ 7 < 8 := by decide

theorem witness_FrameCommandsFrame :
    (∀ i ∈ [Instr.frmEnc, .kindInvalid, .kindFlashStart, .kindFlashData, .kindFlashMac, .kindValidateFlash,
        .kindSendSignature, .frmVal, .frmVack], ∃ t, exec i State.reset = .next t) ∧
      (∃ t, exec .frmDec (received flashDataAck) = .next t) ∧ ∃ t, exec .frmDec (received []) = .next t := by
  refine ⟨?_, ⟨_, rfl⟩, ⟨_, rfl⟩⟩
  intro i hi
  simp only [List.mem_cons, List.not_mem_nil, or_false] at hi
  rcases hi with rfl | rfl | rfl | rfl | rfl | rfl | rfl | rfl | rfl <;> exact ⟨_, rfl⟩

theorem witness_ImgClrStartsANewParse :
    (∀ q ∈ [SeqState.ready, .await], (started q 0).seq = .ready ∨ (started q 0).seq = .await) ∧
      (∀ q ∈ [SeqState.idle, .done, .failed], ¬ ((started q 0).seq = .ready ∨ (started q 0).seq = .await)) := by decide

/-- The state before a record of a type code, the base and the length of its data. -/
def recording (type : Byte) (base : Word) (n : Nat) : State :=
  { State.reset with recType := type, imgBase := base, recOffset := 0xFF01#16, rdbuf := List.replicate n 0#8 }

/-- V-IMG-D9 and V-IMG-D10: 255 bytes end one above the bound, 254 at it; a full store; every other type code. -/
theorem witness_ImgRecReplaysTheRecord :
    (started .ready 0).seq = .ready ∧ ¬ (State.reset.seq = .ready ∨ State.reset.seq = .await) ∧
      (recording 0x04#8 0#32 0).recType = 0x04#8 ∧ (recording 0x02#8 0#32 0).recType = 0x02#8 ∧
      (let s := recording 0x00#8 0xFFFF0000#32 255;
        s.recType = 0x00#8 ∧ s.imgBase.toNat + s.recOffset.toNat + s.rdbuf.length > 0xFFFFFFFF) ∧
      (let s := { recording 0x00#8 0xFFFF0000#32 254 with blk := List.replicate Config.maxBlocks topBlock };
        s.recType = 0x00#8 ∧ s.imgBase.toNat + s.recOffset.toNat + s.rdbuf.length ≤ 0xFFFFFFFF ∧
        s.blk.length = Config.maxBlocks) ∧
      (let s := recording 0x00#8 0xFFFF0000#32 254;
        s.recType = 0x00#8 ∧ s.imgBase.toNat + s.recOffset.toNat + s.rdbuf.length ≤ 0xFFFFFFFF ∧
        s.blk.length ≠ Config.maxBlocks) ∧
      ∀ c ∈ [0x01#8, 0x03#8, 0x05#8, 0x06#8, 0xFF#8], c ≠ 0x00#8 ∧ c ≠ 0x02#8 ∧ c ≠ 0x04#8 := by
  refine ⟨rfl, by decide, rfl, rfl, ⟨rfl, ?_⟩, ⟨rfl, ?_, ?_⟩, ⟨rfl, ?_, ?_⟩, by decide⟩
  · simp only [recording, List.length_replicate]; decide
  · simp only [recording, List.length_replicate]; decide
  · simp only [List.length_replicate]
  · simp only [recording, List.length_replicate]; decide
  · show 0 ≠ Config.maxBlocksLessOne.val + 1; omega

theorem witness_RecordRowsReplayTheirKind :
    (let s := recording 0x00#8 0xFFFF0000#32 254;
      ¬ (s.seq = .ready ∨ s.seq = .await) ∧ (0xFFFFFF01#32 : Word).toNat = s.imgBase.toNat + s.recOffset.toNat ∧
        (0xFFFFFF01#32 : Word).toNat + s.rdbuf.length ≤ 0xFFFFFFFF ∧ s.blk.length < Config.maxBlocks) ∧
      ∀ c ∈ [0x00#8, 0x01#8, 0x02#8, 0x03#8, 0x04#8, 0x05#8], (recording c 0#32 0).recType = c := by
  refine ⟨⟨by decide, by decide, ?_, ?_⟩, by decide⟩
  · simp only [recording, List.length_replicate]; decide
  · show 0 < Config.maxBlocksLessOne.val + 1; omega

/-- An extended-linear record and a data record that ends at 0xFFFFFFFF. -/
theorem witness_ReplayLeavesTheParsedBlocks :
    let rs : List Record := [{ type := 4#8, offset := 0#16, value := 0xFFFF#16, data := [] },
      { type := 0#8, offset := 0xFFFE#16, value := 0#16, data := [0xAA#8] }]
    ¬ (State.reset.seq = .ready ∨ State.reset.seq = .await) ∧ (∃ t, exec .imgClr State.reset = .next t) ∧
      (parseRecords 0 rs).length ≤ Config.maxBlocks ∧
      ∀ b ∈ parseRecords 0 rs, b.addr.toNat + b.data.length ≤ 0xFFFFFFFF := by
  refine ⟨by decide, ⟨_, rfl⟩, ?_, by decide⟩
  show 1 ≤ Config.maxBlocksLessOne.val + 1; omega

theorem witness_ImgWinSetsTheTightWindow :
    State.reset.blk = [] ∧ loaded.blk ≠ [] ∧ ∀ b ∈ loaded.blk, b.wf = true := by decide

/-- The smallest window, and the two windows of V-IMG-2 that are none. -/
theorem witness_ImgHashDigestsTheWindowImage :
    (let s := { State.reset with winMin := 10#32, winMax := 10#32 }; s.winMin.toNat ≥ s.winMax.toNat) ∧
      (let s := { State.reset with winMin := 15#32, winMax := 10#32 }; s.winMin.toNat ≥ s.winMax.toNat) ∧
      (let s := { State.reset with winMin := 10#32, winMax := 11#32 }; s.winMin.toNat < s.winMax.toNat) := by decide

/-- The first and the last address of a block, the second block of V-IMG-D19 over the first, and an address of a gap. -/
theorem witness_WindowImageHoldsTheLastBlock :
    let a : Block := { addr := 0#32, data := [1#8, 1#8, 1#8] }
    let b : Block := { addr := 1#32, data := [2#8, 2#8] }
    (0 ≤ 0 ∧ 0 < 4 ∧ ∀ c ∈ [b], ¬ (c.addr.toNat ≤ 0 ∧ 0 < c.addr.toNat + c.data.length)) ∧
      (0 ≤ 2 ∧ 2 < 4 ∧ [a, b] = [a] ++ b :: [] ∧ b.addr.toNat ≤ 2 ∧ 2 < b.addr.toNat + b.data.length) ∧
      (0 ≤ 0 ∧ [a, b] = [] ++ a :: [b] ∧ a.addr.toNat ≤ 0 ∧ 0 < a.addr.toNat + a.data.length) ∧
      ∀ c ∈ [a, b], ¬ (c.addr.toNat ≤ 3 ∧ 3 < c.addr.toNat + c.data.length) := by decide

theorem witness_ImageCommandsFrame :
    (∀ i ∈ [Instr.imgClr, .imgWin, .imgHash, .recExtSegment, .recExtLinear, .recEof, .recStartSegment, .recStartLinear],
        ∃ t, exec i State.reset = .next t) ∧
      (∀ i ∈ [Instr.imgRec, .recData], ∃ t, exec i State.reset = .next t ∧ t.err = .ok ∧ t.blk ≠ []) ∧
      (∀ i ∈ [Instr.imgRec, .recData], ∃ t, exec i (started .ready 0) = .next t ∧ t.err ≠ .ok) ∧
      (∃ t, exec .imgRec (recording 0xFF#8 0#32 0) = .next t ∧ (recording 0xFF#8 0#32 0).recType ≠ 0x00#8) := by
  have hne : State.reset.blk.length ≠ Config.maxBlocks := by show 0 ≠ Config.maxBlocksLessOne.val + 1; omega
  refine ⟨?_, ?_, ?_, ⟨_, rfl, by decide⟩⟩
  · intro i hi
    simp only [List.mem_cons, List.not_mem_nil, or_false] at hi
    rcases hi with rfl | rfl | rfl | rfl | rfl | rfl | rfl | rfl <;> exact ⟨_, rfl⟩
  · intro i hi
    simp only [List.mem_cons, List.not_mem_nil, or_false] at hi
    rcases replayData_cases Config.maxBlocks State.reset with ⟨h, _⟩ | ⟨_, h, _⟩ | ⟨_, _, h⟩
    · exact absurd h (by decide)
    · exact absurd h hne
    · rcases hi with rfl | rfl <;> exact ⟨_, h, rfl, by simp⟩
  · intro i hi
    simp only [List.mem_cons, List.not_mem_nil, or_false] at hi
    rcases hi with rfl | rfl <;> exact ⟨_, rfl, by simp⟩

/-- Two full pieces and a last one of one byte, and the smallest piece length. -/
theorem witness_ChunkCutsIntoFullPieces :
    (1 ≤ 2 ∧ 0 + 1 < (chunk [1#8, 2#8, 3#8, 4#8, 5#8] 2).length ∧ (chunk [1#8, 2#8, 3#8, 4#8, 5#8] 2).length = 2 + 1) ∧ 1 ≤ 1 := by
  decide

/-- A block that ends at 0xFFFFFFFF, in two chunks; an empty one there. -/
theorem witness_FlushAddressesEachChunk :
    let m : Block := { addr := 0xFFFFFFFC#32, data := [1#8, 2#8, 3#8] }
    1 ≤ 2 ∧ m.addr.toNat + m.data.length ≤ 0xFFFFFFFF ∧ (flush m 2)[1]? = some (0xFFFFFFFE#32, [3#8]) ∧
      (0xFFFFFFFF#32 : Word).toNat + ([] : List Byte).length ≤ 0xFFFFFFFF := by decide

/-- Two blocks that touch, the second ending at 0xFFFFFFFF. -/
theorem witness_PlanCoversTheBlocksExactly :
    let bs : List Block := [{ addr := 0xFFFFFFFC#32, data := [1#8, 2#8] }, topBlock]
    1 ≤ 1 ∧ bs ≠ [] ∧ (∀ b ∈ bs, b.addr.toNat + b.data.length ≤ 0xFFFFFFFF) ∧
      bs.Pairwise (fun b c => b.addr.toNat + b.data.length ≤ c.addr.toNat ∨ c.addr.toNat + c.data.length ≤ b.addr.toNat) := by
  decide

/-- V-MRG-D11 and V-MRG-D12: the smallest and the largest legal configuration. -/
theorem witness_PlannedFramesFitMaxPayload :
    [topBlock] ≠ [] ∧ (∀ b ∈ [topBlock], b.addr.toNat + b.data.length ≤ 0xFFFFFFFF) ∧ (12 ≤ 12 ∧ 1 ≤ 8 ∧ 8 ≤ 12 - 4 ∧ 12 ≤ 65535) ∧ (12 ≤ 65535 ∧ 1 ≤ 65531 ∧ 65531 ≤ 65535 - 4 ∧ 65535 ≤ 65535) := by
  decide

theorem witness_MrgStartPlansTheSequence :
    (∀ q ∈ [SeqState.ready, .await], (started q 0).seq = .ready ∨ (started q 0).seq = .await) ∧
      (let s := { loaded with maxPayload := 12#16, chunkSize := 9#16 };
        ¬ (s.seq = .ready ∨ s.seq = .await) ∧
          ¬ (12 ≤ s.maxPayload.toNat ∧ 1 ≤ s.chunkSize.toNat ∧ s.chunkSize.toNat ≤ s.maxPayload.toNat - 4)) ∧
      (let s := State.reset;
        ¬ (s.seq = .ready ∨ s.seq = .await) ∧
          (12 ≤ s.maxPayload.toNat ∧ 1 ≤ s.chunkSize.toNat ∧ s.chunkSize.toNat ≤ s.maxPayload.toNat - 4) ∧ s.blk = []) ∧
      (let s := { loaded with maxPayload := 12#16, chunkSize := 8#16 };
        ¬ (s.seq = .ready ∨ s.seq = .await) ∧
          (12 ≤ s.maxPayload.toNat ∧ 1 ≤ s.chunkSize.toNat ∧ s.chunkSize.toNat ≤ s.maxPayload.toNat - 4) ∧ s.blk ≠ [] ∧
          (∀ b ∈ s.blk, b.wf = true) ∧ s.blk.length ≤ Config.maxBlocks) := by
  refine ⟨by decide, by decide, by decide, by decide, by decide, by decide, by decide, ?_⟩
  show 1 ≤ Config.maxBlocksLessOne.val + 1; omega

/-- READY before the DATA entry and before the META entry, and a state that is not READY. -/
theorem witness_MrgNextSendsThePlannedFrame :
    State.reset.seq ≠ .ready ∧
      ((started .ready 0).Inv ∧ (started .ready 0).seq = .ready ∧
        (started .ready 0).seqFrames[0]? = some (dataEntry (0xFFFFFFFE#32, [0xAA#8]))) ∧
      ((started .ready 1).Inv ∧ (started .ready 1).seq = .ready ∧
        (started .ready 1).seqFrames[1]? = some (metaEntry 0#32 0xFFFFFFFE#32 0xFFFFFFFF#32)) :=
  ⟨by decide, ⟨started_inv (by decide), rfl, rfl⟩, ⟨started_inv (by decide), rfl, rfl⟩⟩

/-- The packet of the FlashData ACK. -/
def ackPacket : Packet := { marker := 0xA5#8, kind := 2#8, len := 1#16, payload := [0x55#8], crcRx := 0x28F5#16 }

theorem decode_ack : decodeFrame flashDataAck = .ok ackPacket := rfl

theorem validate_ack : validate ackPacket (some 2#8) (some [0x55#8]) = .ok := by decide +kernel

/-- A load of RXBUF keeps the invariant of a state that awaits. -/
theorem awaiting_inv (idx : Nat) (response : List Byte) (h : idx < 2) (hr : response.length ≤ 65541) :
    (awaiting idx response).Inv := by
  obtain ⟨a1, a2, a3, a4, a5, a6, a7, a8, a9, a10, a11, a12, a13, a14⟩ := started_inv (q := .await) (idx := idx) (.inl ⟨.inr (.inl rfl), h⟩)
  exact ⟨Memory.wf_setBuf (b := .rxbuf) a1 hr (by intro h; cases h), a2, a3, a4, a5, a6, a7, a8, a9, a10, a11, a12, a13, a14⟩

/-- A state for each clause: not AWAIT; no response; a response of the wrong kind; a good one for the DATA entry and for
the META entry. -/
theorem witness_MrgAckChecksTheResponse :
    State.reset.seq ≠ .await ∧
      ((awaiting 0 []).seq = .await ∧ decodeFrame (awaiting 0 []).rxbuf = .error .frameShort) ∧
      (let p : Packet := { ackPacket with kind := 1#8, crcRx := 0xB329#16 };
        (awaiting 0 [0xA5#8, 1#8, 1#8, 0#8, 0x55#8, 0x29#8, 0xB3#8]).seq = .await ∧
          decodeFrame (awaiting 0 [0xA5#8, 1#8, 1#8, 0#8, 0x55#8, 0x29#8, 0xB3#8]).rxbuf = .ok p ∧
          validate p (some 2#8) (some [0x55#8]) ≠ .ok) ∧
      (∀ idx, idx < 2 → (awaiting idx flashDataAck).Inv ∧ (awaiting idx flashDataAck).seq = .await ∧
        decodeFrame (awaiting idx flashDataAck).rxbuf = .ok ackPacket ∧
        validate ackPacket (some 2#8) (some [0x55#8]) = .ok) ∧
      (awaiting 0 flashDataAck).seqFrames[0]? = some (dataEntry (0xFFFFFFFE#32, [0xAA#8])) ∧
      (awaiting 1 flashDataAck).seqFrames[1]? = some (metaEntry 0#32 0xFFFFFFFE#32 0xFFFFFFFF#32) :=
  ⟨by decide, ⟨rfl, rfl⟩, ⟨rfl, rfl, by decide⟩,
    fun idx h => ⟨awaiting_inv idx _ h (by decide), rfl, decode_ack, validate_ack⟩, rfl, rfl⟩

theorem witness_MrgAbortFailsTheSequence :
    ((started .ready 0).seq = .ready ∨ (started .ready 0).seq = .await) ∧
      ((started .await 1).seq = .ready ∨ (started .await 1).seq = .await) ∧
      ∀ q ∈ [SeqState.idle, .done, .failed], ¬ ((started q 0).seq = .ready ∨ (started q 0).seq = .await) := by decide

/-- A FlashData ACK acknowledges the awaited entry. -/
theorem good_ack (idx : Nat) {e : SeqEntry} (he : (awaiting idx flashDataAck).seqFrames[idx]? = some e) :
    exec .mrgAck (awaiting idx flashDataAck) =
      .next ((((awaiting idx flashDataAck).storePacket ackPacket).acknowledge e).withErr .ok) := by
  rcases execMrgAck_cases (awaiting idx flashDataAck) with ⟨h, -⟩ | ⟨x, -, -, h, -⟩ | ⟨p, -, h, -, -, hc⟩
  · exact absurd rfl h
  · exact absurd (h.symm.trans decode_ack) (by simp)
  · obtain rfl : p = ackPacket := by simpa using h.symm.trans decode_ack
    rcases hc with ⟨h, -⟩ | ⟨-, h, -⟩ | ⟨x, -, hx, h⟩
    · exact absurd validate_ack h
    · exact absurd (h.symm.trans he) (by simp)
    · obtain rfl : x = e := by simpa using hx.symm.trans he
      exact h

/-- A command for each listed transition, and a state for each refusal. -/
theorem witness_SequencerTransitions :
    (∃ t, exec .mrgStart loaded = .next t ∧ t.seq ≠ loaded.seq) ∧
      (∃ t, exec .mrgNext (started .ready 0) = .next t ∧ t.seq ≠ (started .ready 0).seq) ∧
      (∃ t, exec (.mrgAbort 0#8) (started .await 0) = .next t ∧ t.seq ≠ (started .await 0).seq) ∧
      (∃ t, exec .mrgAck (awaiting 0 []) = .next t ∧ t.seq ≠ (awaiting 0 []).seq) ∧
      (∃ t, exec .mrgAck (awaiting 0 flashDataAck) = .next t ∧ t.seq = .ready ∧ t.seq ≠ (awaiting 0 flashDataAck).seq) ∧
      (∃ t, exec .mrgAck (awaiting 1 flashDataAck) = .next t ∧ t.seq = .done ∧ t.seq ≠ (awaiting 1 flashDataAck).seq) ∧
      (started .ready 0).seq ∈ [SeqState.ready, .await] ∧ State.reset.seq ≠ .ready ∧ State.reset.seq ≠ .await ∧
      State.reset.seq ∉ [SeqState.ready, .await] :=
  ⟨⟨_, rfl, by decide⟩, ⟨_, rfl, by decide⟩, ⟨_, rfl, by decide⟩, ⟨_, rfl, by decide⟩, ⟨_, good_ack 0 rfl, rfl, by decide⟩,
    ⟨_, good_ack 1 rfl, rfl, by decide⟩, by decide, by decide, by decide, by decide⟩

theorem witness_SequenceIsASnapshot : Instr.mrgNext = .mrgNext ∨ Instr.mrgNext = .mrgAck := .inl rfl

theorem witness_SequencerCommandsFrame :
    (∃ t, exec .mrgStart loaded = .next t) ∧ (∃ t, exec .mrgNext (started .ready 0) = .next t) ∧
      (∃ t, exec .mrgAck (awaiting 0 []) = .next t) ∧ ∃ t, exec (.mrgAbort 255#8) (started .await 0) = .next t :=
  ⟨⟨_, rfl⟩, ⟨_, rfl⟩, ⟨_, rfl⟩, ⟨_, rfl⟩⟩

theorem witness_FlashStepSendsThePlanAndCompletes : loaded.Inv ∧ ∃ t, exec .mrgStart loaded = .next t ∧ t.err = .ok :=
  ⟨loaded_inv, _, rfl, rfl⟩

theorem witness_CommandsCompleteWithTheirOwnCodes : ∃ t, exec .frmVal State.reset = .next t := ⟨_, rfl⟩

/-- An error of each shape R195 names, and an illegal word in `CMD`. -/
theorem witness_ErrorsChangeNothingElse :
    ((facing (.writeReg 0x00#8 0xFFFFFFFF#32)).port.pending = .writeReg (Reg.offset .cmd) 0xFFFFFFFF#32 :: [] ∧
        ∃ t, step (facing (.writeReg 0x00#8 0xFFFFFFFF#32)) = .next t) ∧
      (∃ t, exec .imgWin State.reset = .next t ∧ t.err ≠ .ok) ∧ (∃ t, exec .frmDec State.reset = .next t ∧ t.err ≠ .ok) ∧
      (∃ t, exec .mrgAck (awaiting 0 []) = .next t ∧ t.err ≠ .ok) ∧
      (∃ t, exec .mrgAck (awaiting 0 [0x5A#8, 2#8, 0#8, 0#8, 0#8, 0#8]) = .next t ∧ t.err ≠ .ok) ∧
      ∃ t, exec (.mrgAbort 1#8) (started .ready 0) = .next t ∧ t.err ≠ .ok :=
  ⟨⟨rfl, _, rfl⟩, ⟨_, rfl, by decide⟩, ⟨_, rfl, by decide⟩, ⟨_, rfl, by decide⟩, ⟨_, rfl, by decide⟩, ⟨_, rfl, by decide⟩⟩

theorem witness_PackedAndMirrorRegisters :
    Memory.wf loaded = true ∧ loaded.blk.length ≤ Config.maxBlocks ∧
      (let s := { loaded with seqIdx := 0xFFFFFFFF }; s.seqIdx ≤ 0xFFFFFFFF) ∧ (started .done 2).seqFrames.length ≤ 0xFFFFFFFF :=
  ⟨by decide, loaded_inv.store, le_refl _, by show 2 ≤ 0xFFFFFFFF; decide⟩

/-- A store with a valid digest of the window of its one block. -/
def hashed : State :=
  { loaded with
    winMin := 0xFFFFFFFE#32, winMax := 0xFFFFFFFF#32, digValid := true
    digbuf := Sha256.digest (windowImage [topBlock] 0xFFFFFFFE 0xFFFFFFFF) }

theorem hashed_inv : hashed.Inv := by
  obtain ⟨a1, a2, a3, a4, a5, a6, a7, a8, a9, a10, a11, a12, a13, -⟩ := loaded_inv
  exact ⟨Memory.wf_setBuf (b := .digbuf) a1 (le_of_eq (Sha256.digest_length _)) (fun _ => Sha256.digest_length _), a2, a3, a4, a5, a6,
    a7, a8, a9, a10, a11, a12, a13, fun _ => ⟨0xFFFFFFFE#32, 0xFFFFFFFF#32, by decide, rfl⟩⟩

theorem witness_EveryStepKeepsTheInvariant :
    loaded.Inv ∧ (∃ t, step loaded = .next t) ∧ (hashed.Inv ∧ hashed.digValid = true) ∧ ∀ q ∈ [SeqState.ready, .await, .failed], (started q 1).Inv :=
  ⟨loaded_inv, ⟨_, rfl⟩, ⟨hashed_inv, rfl⟩, fun q hq => started_inv (.inl ⟨by simpa using hq, by decide⟩)⟩

theorem witness_EveryInstructionCompletes : (started .ready 0).Inv ∧ (awaiting 1 flashDataAck).Inv :=
  ⟨started_inv (by decide), awaiting_inv 1 _ (by decide) (by decide)⟩

/-- With no action pending, and with a well-formed one next. -/
theorem witness_OnlyHostDutiesStopTheMachine :
    (loaded.Inv ∧ loaded.HostKeepsDuty) ∧
      (loaded.withPending [.readReg 0xFC#8]).Inv ∧ (loaded.withPending [.readReg 0xFC#8]).HostKeepsDuty := by
  refine ⟨⟨loaded_inv, by intro a h; cases h⟩, ?_, by intro a h; cases h; rfl⟩
  obtain ⟨a1, a2, a3, a4, a5, a6, a7, a8, a9, a10, a11, a12, a13, a14⟩ := loaded_inv
  exact ⟨a1, a2, a3, a4, a5, a6, a7, a8, a9, a10, a11, a12, a13, a14⟩

theorem witness_ProgressIsBoundedAndCompleteWhenDone : (started .done 2).Inv ∧ (started .done 2).seq = .done :=
  ⟨started_inv (.inr ⟨rfl, rfl⟩), rfl⟩

theorem witness_ResetKeepsTheHostsSide : (facing .reset).port.pending = .reset :: [] := rfl

theorem witness_TopImageAddressIsNeverCovered : loaded.Inv ∧ 0xFFFFFFFF ≤ 0xFFFFFFFF := ⟨loaded_inv, le_refl _⟩

end Sys2Proof.Machine.Tests
end

/-! ## Proofs of the scope: a step runs the decoded command (R8, R21), and no command stops the unit (R190, R196) -/

section
namespace Sys2Proof.Machine

/-! ### What a step does with the host's next action -/

theorem step_of_pending {s : State} {a : HostAction} {rest : List HostAction} (h : s.port.pending = a :: rest) :
    step s = perform a (s.withPending rest) := by
  simp [step, h]

theorem hostWrite_cmd (w : Word) (s : State) : hostWrite (Reg.offset .cmd) w s = issue w { s with cmd := w } := rfl

theorem issue_of_decode {w : Word} {i : Instr} (h : decode w = .instr i) (s : State) : issue w s = exec i s := by
  simp [issue, h]

/-- Settles O4: the action is a write to `CMD`, which issues the word stored there, and a legal word runs its command. -/
theorem stepRunsTheDecodedCommand : Obligations.StepRunsTheDecodedCommand := by
  intro s w i rest hpending hdecode
  calc step s
    _ = hostWrite (Reg.offset .cmd) w (s.withPending rest) := step_of_pending hpending
    _ = issue w { s.withPending rest with cmd := w } := hostWrite_cmd w _
    _ = exec i { s.withPending rest with cmd := w } := issue_of_decode hdecode _

/-! ### The entry that is due while a sequence is active -/

/-- An active sequence has an entry at `SEQ_IDX` (R49, R167). -/
theorem State.Inv.seqIdx_lt {s : State} (h : s.Inv) (ha : s.seq = .ready ∨ s.seq = .await) :
    s.seqIdx < s.seqFrames.length := by
  have hne : s.seqIdx ≠ s.seqFrames.length := fun heq => by
    rcases h.ended.1 heq with hq | hq <;> rcases ha with ha | ha <;> simp [hq] at ha
  have := h.index
  omega

theorem State.Inv.exists_due_entry {s : State} (h : s.Inv) (ha : s.seq = .ready ∨ s.seq = .await) :
    ∃ e, s.seqFrames[s.seqIdx]? = some e :=
  ⟨_, List.getElem?_eq_getElem (h.seqIdx_lt ha)⟩

/-- A planned frame holds its header and its CRC at least (R164). -/
theorem State.Inv.entry_frame_length {s : State} (h : s.Inv) (hs : s.seq ≠ .idle) {n : Nat} {e : SeqEntry}
    (he : s.seqFrames[n]? = some e) : 6 ≤ e.frame.length := by
  obtain ⟨payload, -, hframe⟩ := (h.shape hs).entry (List.mem_of_getElem? he)
  rw [hframe, encodeFrame_length]
  omega

/-! ### Every command completes -/

/-- The outcome is a next state whose `CMD` and host's side are those of `s`. -/
def CompletesFrom (s : State) (o : Outcome) : Prop := ∃ t, o = .next t ∧ t.cmd = s.cmd ∧ t.port = s.port

theorem completesFrom_of_eq {s t : State} {o : Outcome} (ho : o = .next t) (hcmd : t.cmd = s.cmd)
    (hport : t.port = s.port) : CompletesFrom s o :=
  ⟨t, ho, hcmd, hport⟩

theorem unlessActive_completes {s : State} {go : State → Outcome} (h : CompletesFrom s (go s)) :
    CompletesFrom s (unlessActive s go) := by
  rcases unlessActive_cases s go with ⟨-, hex⟩ | ⟨-, hex⟩
  · exact completesFrom_of_eq hex rfl rfl
  · rwa [hex]

theorem frameKind_completes (kind : Byte) (s : State) : CompletesFrom s (frameKind kind s) :=
  completesFrom_of_eq (frameKind_eq kind s) rfl rfl

theorem execFrmEnc_completes (s : State) : CompletesFrom s (execFrmEnc s) := by
  rcases execFrmEnc_cases s with ⟨-, hex⟩ | ⟨-, hex⟩
  · exact completesFrom_of_eq hex rfl rfl
  · rw [hex]
    exact frameKind_completes _ s

theorem execFrmDec_completes (s : State) : CompletesFrom s (execFrmDec s) := by
  rcases execFrmDec_cases s with ⟨_, -, -, hex⟩ | ⟨_, -, -, -, hex⟩ <;> exact completesFrom_of_eq hex rfl rfl

theorem execImgClr_completes (s : State) : CompletesFrom s (execImgClr s) := by
  rcases execImgClr_cases s with ⟨-, hex⟩ | ⟨-, hex⟩ <;> exact completesFrom_of_eq hex rfl rfl

theorem replayData_completes (n : Nat) (s : State) : CompletesFrom s (replayData n s) := by
  rcases replayData_cases n s with ⟨-, hex⟩ | ⟨-, -, hex⟩ | ⟨-, -, hex⟩ <;> exact completesFrom_of_eq hex rfl rfl

theorem replaySegment_completes (s : State) : CompletesFrom s (replaySegment s) :=
  completesFrom_of_eq (replaySegment_eq s) rfl rfl

theorem replayLinear_completes (s : State) : CompletesFrom s (replayLinear s) :=
  completesFrom_of_eq (replayLinear_eq s) rfl rfl

theorem replayIgnored_completes (s : State) : CompletesFrom s (replayIgnored s) :=
  completesFrom_of_eq (replayIgnored_eq s) rfl rfl

theorem replay_completes (c : Byte) (s : State) : CompletesFrom s (replay c s) := by
  rcases replay_cases c s with ⟨-, hr⟩ | ⟨-, hr⟩ | ⟨-, hr⟩ | ⟨-, -, -, hr⟩ <;> rw [hr]
  · exact replayData_completes _ s
  · exact replaySegment_completes s
  · exact replayLinear_completes s
  · exact replayIgnored_completes s

theorem execImgWin_completes (s : State) : CompletesFrom s (execImgWin s) := by
  rcases execImgWin_cases s with ⟨-, hex⟩ | ⟨-, hex⟩ <;> exact completesFrom_of_eq hex rfl rfl

theorem execImgHash_completes (s : State) : CompletesFrom s (execImgHash s) := by
  rcases execImgHash_cases s with ⟨-, hex⟩ | ⟨-, hex⟩ <;> exact completesFrom_of_eq hex rfl rfl

theorem execMrgStart_completes (s : State) : CompletesFrom s (execMrgStart s) := by
  rcases execMrgStart_cases s with ⟨-, hex⟩ | ⟨-, -, hex⟩ | ⟨-, -, -, hex⟩ | ⟨-, -, -, hex⟩ <;>
    exact completesFrom_of_eq hex rfl rfl

/-- The invariant rules out both faults of `MRG.NEXT`: in READY an entry is due, and its frame holds a CRC. -/
theorem execMrgNext_completes {s : State} (h : s.Inv) : CompletesFrom s (execMrgNext s) := by
  rcases execMrgNext_cases s with ⟨-, hex⟩ | ⟨hs, hnone, -⟩ | ⟨e, hs, he, hshort, -⟩ | ⟨_, -, -, -, hex⟩
  · exact completesFrom_of_eq hex rfl rfl
  · obtain ⟨e, he⟩ := h.exists_due_entry (.inl hs)
    simp [hnone] at he
  · have := h.entry_frame_length (by simp [hs]) he
    omega
  · exact completesFrom_of_eq hex rfl rfl

/-- The invariant rules out the fault of `MRG.ACK`: in AWAIT the entry sent is still there. -/
theorem execMrgAck_completes {s : State} (h : s.Inv) : CompletesFrom s (execMrgAck s) := by
  rcases execMrgAck_cases s with ⟨-, hex⟩ | ⟨_, -, -, -, hex⟩ |
    ⟨_, hs, -, -, -, ⟨-, hex⟩ | ⟨-, hnone, -⟩ | ⟨_, -, -, hex⟩⟩
  · exact completesFrom_of_eq hex rfl rfl
  · exact completesFrom_of_eq hex rfl rfl
  · exact completesFrom_of_eq hex rfl rfl
  · obtain ⟨e, he⟩ := h.exists_due_entry (.inr hs)
    simp [hnone] at he
  · exact completesFrom_of_eq hex rfl rfl

theorem execMrgAbort_completes (c : Byte) (s : State) : CompletesFrom s (execMrgAbort c s) := by
  rcases execMrgAbort_cases c s with ⟨-, hex⟩ | ⟨-, hex⟩ <;> exact completesFrom_of_eq hex rfl rfl

/-- Settles O53: each command completes in every state, but for `MRG.NEXT` and `MRG.ACK`, which the invariant keeps from
their faults. The kind and record rows are the commands of log entry 2. -/
theorem everyInstructionCompletes : Obligations.EveryInstructionCompletes := by
  intro i s h
  show CompletesFrom s (exec i s)
  cases i with
  | crcInit => exact completesFrom_of_eq (succeed_eq _) rfl rfl
  | crcByte imm => exact completesFrom_of_eq (succeed_eq _) rfl rfl
  | crcBuf => exact completesFrom_of_eq (succeed_eq _) rfl rfl
  | frmEnc => exact execFrmEnc_completes s
  | frmDec => exact execFrmDec_completes s
  | frmVal => exact completesFrom_of_eq (execFrmVal_eq s) rfl rfl
  | frmVack => exact completesFrom_of_eq (execFrmVack_eq s) rfl rfl
  | imgClr => exact execImgClr_completes s
  | imgRec => exact unlessActive_completes (replay_completes s.recType s)
  | imgWin => exact execImgWin_completes s
  | imgHash => exact execImgHash_completes s
  | mrgStart => exact execMrgStart_completes s
  | mrgNext => exact execMrgNext_completes h
  | mrgAck => exact execMrgAck_completes h
  | mrgAbort imm => exact execMrgAbort_completes imm s
  | kindInvalid | kindFlashStart | kindFlashData | kindFlashMac | kindValidateFlash | kindSendSignature =>
    exact frameKind_completes _ s
  | recData => exact unlessActive_completes (replayData_completes _ s)
  | recExtSegment => exact unlessActive_completes (replaySegment_completes s)
  | recExtLinear => exact unlessActive_completes (replayLinear_completes s)
  | recEof | recStartSegment | recStartLinear => exact unlessActive_completes (replayIgnored_completes s)

end Sys2Proof.Machine
end

/-! ## Proofs of the state family: every step keeps the invariant (R27, R28, R33, R40, R49, R51, R53, R142, R170, R228) -/

section
namespace Sys2Proof.Machine

/-! ### Numbers as words -/

theorem toNat_wordOfNat_le (n : Nat) : (BitVec.ofNat 32 n).toNat ≤ n :=
  (BitVec.toNat_ofNat n 32).trans_le (Nat.mod_le _ _)

theorem toNat_wordOfNat {n : Nat} (h : n < 2 ^ 32) : (BitVec.ofNat 32 n).toNat = n :=
  (BitVec.toNat_ofNat n 32).trans (Nat.mod_eq_of_lt h)

/-! ### The operations of the state keep the invariant -/

/-- The invariant says nothing of `STATUS.ERR`. -/
theorem State.Inv.withErr {s : State} (h : s.Inv) (e : ErrCode) : (s.withErr e).Inv := { h with }

theorem State.Inv.withPending {s : State} (h : s.Inv) (p : List HostAction) : (s.withPending p).Inv := { h with }

theorem State.Inv.withReply {s : State} (h : s.Inv) (r : HostReply) : (s.withReply r).Inv := { h with }

/-- A host load reaches no buffer that the invariant ties to a register. -/
theorem State.Inv.setBuf {s : State} (h : s.Inv) {b : Buffer} {bytes : List Byte} (hb : b.loadable = true)
    (hlen : bytes.length ≤ b.capacity) : (s.setBuf b bytes).Inv := by
  have hmem : Memory.wf (s.setBuf b bytes) = true :=
    Memory.wf_setBuf h.memory hlen (by rintro rfl; cases hb)
  cases b with
  | pbuf | rxbuf | expbuf | rdbuf => exact { h with memory := hmem }
  | txbuf | rpbuf | digbuf => cases hb

/-- No register the host can write is one the invariant speaks of. -/
theorem State.Inv.writeReg {s : State} (h : s.Inv) (r : Reg) (v : Word) : (writeReg r v s).Inv := by
  have hmem : Memory.wf (Machine.writeReg r v s) = true := (Memory.wf_writeReg r v s).trans h.memory
  cases r <;> exact { h with memory := hmem }

theorem State.Inv.writeOffset {s : State} (h : s.Inv) (off : Byte) (v : Word) : (writeOffset off v s).Inv := by
  unfold Machine.writeOffset
  split
  · exact h.writeReg _ v
  · exact h

/-- TXBUF holding a whole frame of a kind 0 to 5 (R33, R85). -/
theorem State.Inv.storeTx {s : State} (h : s.Inv) {kind : Byte} {payload : List Byte}
    (hkind : kind.toNat ≤ Config.maxKind) (hlen : payload.length ≤ Config.pcap) :
    (s.storeTx (encodeFrame kind payload)).Inv :=
  { h with
    memory := Memory.wf_storeTx h.memory (by simp only [encodeFrame_length, Config.pcap, Config.fcap] at *; omega)
    frame := .inr ⟨kind, payload, hkind, hlen, rfl, rfl⟩ }

theorem State.Inv.clearDecValid {s : State} (h : s.Inv) : ({ s with decValid := false } : State).Inv :=
  { h with decoded := nofun }

/-- A packet taken from RXBUF has a payload that fits RPBUF and the length it names (R122). -/
theorem State.Inv.storePacket {s : State} (h : s.Inv) {p : Packet} (hlen : p.len.toNat = p.payload.length)
    (hrx : s.rxbuf.length = 6 + p.payload.length) : (s.storePacket p).Inv := by
  obtain ⟨-, -, hcap, -⟩ := (Memory.wf_iff s).1 h.memory
  exact { h with
    memory := Memory.wf_storePacket h.memory (by simp only [Config.pcap, Config.fcap] at *; omega)
    decoded := fun _ => hlen }

/-- An empty store (R141), which no active sequence was planned from (R228). -/
theorem State.Inv.clearStore {s : State} (h : s.Inv) (ha : s.seq.active = false) :
    ({ s with blk := [], imgBase := 0#32, digValid := false } : State).Inv :=
  { h with
    store := Nat.zero_le _
    blocks := nofun
    base := Nat.zero_le _
    locked := fun hq => by simp [ha] at hq
    digest := nofun }

/-- The block of a data record that passed its checks (R143). -/
theorem State.Inv.appendRecord {s : State} (h : s.Inv) (ha : s.seq.active = false)
    (hrange : recordAddr s + s.rdbuf.length ≤ Config.u32Max) (hroom : s.blk.length ≠ Config.maxBlocks) :
    ({ s with
        blk := s.blk ++ [{ addr := BitVec.ofNat 32 (recordAddr s), data := s.rdbuf }]
        digValid := false } : State).Inv := by
  have hstore := h.store
  obtain ⟨-, -, -, -, -, hrd, -⟩ := (Memory.wf_iff s).1 h.memory
  have hstop : (BitVec.ofNat 32 (recordAddr s)).toNat + s.rdbuf.length ≤ Config.u32Max :=
    (Nat.add_le_add_right (toNat_wordOfNat_le _) _).trans hrange
  exact { h with
    store := by simp only [List.length_append, List.length_singleton]; omega
    blocks := by
      intro b hb
      rcases List.mem_append.1 hb with hb | hb
      · exact h.blocks b hb
      · obtain rfl := List.mem_singleton.1 hb
        exact (Block.wf_iff _).2 ⟨hrd, hstop⟩
    locked := fun hq => by simp [ha] at hq
    digest := nofun }

/-- The running base of an extended-address record, a 16-bit value times 16 or 65536 (R142). -/
theorem State.Inv.setImgBase {s : State} (h : s.Inv) (v : Half) {k : Nat} (hk : k ≤ 65536) :
    ({ s with imgBase := BitVec.ofNat 32 (v.toNat * k) } : State).Inv := by
  have hv : v.toNat ≤ 65535 := Nat.le_of_lt_succ v.isLt
  exact { h with base := (toNat_wordOfNat_le _).trans (Nat.mul_le_mul hv hk) }

/-- A digest of the window image of the store as it is (R149). -/
theorem State.Inv.storeDigest {s : State} (h : s.Inv) {lo hi : Word} (hlt : lo.toNat < hi.toNat) :
    ({ s with
        digbuf := Sha256.digest (windowImage s.blk lo.toNat hi.toNat)
        digValid := true } : State).Inv :=
  { h with
    memory := Memory.wf_setBuf (b := .digbuf) h.memory (Sha256.digest_length _).le (fun _ => Sha256.digest_length _)
    digest := fun _ => ⟨lo, hi, hlt, rfl⟩ }

/-- An unfinished sequence sent to AWAIT or to FAILED, its entries and its index as they are (R172). -/
theorem State.Inv.setSeq {s : State} (h : s.Inv) (hs : s.seq = .ready ∨ s.seq = .await) {q : SeqState}
    (hq : q = .await ∨ q = .failed) : ({ s with seq := q } : State).Inv := by
  have hlt := h.seqIdx_lt hs
  have hidle : s.seq ≠ .idle := by rcases hs with hs | hs <;> simp [hs]
  have hq' : q ≠ .done ∧ q ≠ .idle := by rcases hq with rfl | rfl <;> simp
  exact { h with
    ended := by simp [hq', hlt.ne]
    started := by simp [hq', h.started, hidle]
    shape := fun _ => h.shape hidle
    locked := fun _ => h.locked ((SeqState.active_iff _).2 hs) }

/-- A good ACK counts the bytes of its entry, which the plan's total bounds, and moves on (R168, R170). -/
theorem State.Inv.acknowledge {s : State} (h : s.Inv) (hs : s.seq = .await) {e : SeqEntry}
    (he : s.seqFrames[s.seqIdx]? = some e) : (s.acknowledge e).Inv := by
  have hlt := h.seqIdx_lt (.inr hs)
  have hidle : s.seq ≠ .idle := by simp [hs]
  have hbound : sentBytes (s.seqFrames.take (s.seqIdx + 1)) < 2 ^ 32 :=
    (sentBytes_take_le _ _).trans_lt (h.total ▸ s.progTotal.isLt)
  rw [sentBytes_take_succ he, ← h.sent] at hbound
  exact { h with
    index := hlt
    ended := by
      simp only [State.acknowledge_seqIdx, State.acknowledge_seqFrames, State.acknowledge_seq]
      split <;> simp [*]
    started := by
      simp only [State.acknowledge_seqFrames, State.acknowledge_seq, h.started, hidle, false_iff]
      split <;> simp
    shape := fun _ => h.shape hidle
    sent := by
      simp only [State.acknowledge_seqIdx, State.acknowledge_seqFrames, State.acknowledge_progSent]
      rw [sentBytes_take_succ he, ← h.sent]
      split at hbound
      · have hdata : (BitVec.ofNat 32 e.data.length).toNat = e.data.length := toNat_wordOfNat (by omega)
        rw [if_pos ‹_›, if_pos ‹_›, BitVec.toNat_add_of_lt (by rwa [hdata]), hdata]
      · rw [if_neg ‹_›, if_neg ‹_›, Nat.add_zero]
    locked := fun _ => h.locked ((SeqState.active_iff _).2 (.inr hs)) }

/-- A plan made under a legal configuration from the store as it is (R164, R166). -/
theorem State.Inv.startSequence {s : State} (h : s.Inv)
    (hc : legalConfig s.maxPayload.toNat s.chunkSize.toNat = true) : s.startSequence.Inv := by
  obtain ⟨hmax, hcs, hle⟩ := (legalConfig_iff _ _).1 hc
  have hmaxp := s.maxPayload.isLt
  have hne := plan_ne_nil s.blk s.maxPayload.toNat s.chunkSize.toNat s.metaMarker
  have hwf : ∀ b ∈ s.blk, b.data.length ≤ Config.rdCap ∧ b.stop ≤ Config.u32Max :=
    fun b hb => (Block.wf_iff b).1 (h.blocks b hb)
  obtain ⟨hlo, hhi⟩ := deriveWindow_lt (fun b hb => (hwf b hb).2)
  have htotal : (BitVec.ofNat 32 (totalBytes s.blk)).toNat = totalBytes s.blk :=
    toNat_wordOfNat (totalBytes_lt (fun b hb => (hwf b hb).1) h.store)
  exact { h with
    index := Nat.zero_le _
    ended := by simp [(List.length_pos_iff.2 hne).ne]
    started := by simpa using hne
    shape := fun _ => by
      refine ⟨units s.blk (s.maxPayload.toNat - Config.addrPrefix) s.chunkSize.toNat, s.metaMarker, fun u hu => ?_, rfl⟩
      have := units_mem_length hcs u hu
      simp only [Config.addrPrefix, Config.pcap] at *
      omega
    sent := rfl
    total := htotal.trans (plan_sentBytes _ _ hcs _).symm
    locked := fun _ => ⟨htotal, toNat_wordOfNat hlo, toNat_wordOfNat hhi⟩ }

/-! ### Every command keeps the invariant -/

/-- The outcome's next state, if it has one, meets the invariant. -/
def InvAfter (o : Outcome) : Prop := ∀ t, o = .next t → t.Inv

theorem invAfter_of_next {o : Outcome} {t : State} (ho : o = .next t) (ht : t.Inv) : InvAfter o := by
  rintro _ rfl
  cases ho
  exact ht

theorem invAfter_of_fault {o : Outcome} {f : Fault} (ho : o = .fault f) : InvAfter o := by
  rintro _ rfl
  cases ho

theorem unlessActive_inv {s : State} {go : State → Outcome} (h : s.Inv)
    (hgo : s.seq.active = false → InvAfter (go s)) : InvAfter (unlessActive s go) := by
  rcases unlessActive_cases s go with ⟨-, hex⟩ | ⟨ha, hex⟩
  · exact invAfter_of_next hex (h.withErr _)
  · exact hex ▸ hgo ha

theorem frameKind_inv {s : State} (h : s.Inv) {kind : Byte} (hkind : kind.toNat ≤ Config.maxKind) :
    InvAfter (frameKind kind s) := by
  obtain ⟨hp, -⟩ := (Memory.wf_iff s).1 h.memory
  exact invAfter_of_next (succeed_eq _) ((h.storeTx hkind hp).withErr .ok)

theorem execFrmEnc_inv {s : State} (h : s.Inv) : InvAfter (execFrmEnc s) := by
  rcases execFrmEnc_cases s with ⟨-, hex⟩ | ⟨hkind, hex⟩
  · exact invAfter_of_next hex (h.withErr _)
  · exact hex ▸ frameKind_inv h hkind

theorem execFrmDec_inv {s : State} (h : s.Inv) : InvAfter (execFrmDec s) := by
  rcases execFrmDec_cases s with ⟨e, -, -, hex⟩ | ⟨p, -, hlen, hrx, hex⟩
  · exact invAfter_of_next hex (h.clearDecValid.withErr e)
  · exact invAfter_of_next hex ((h.storePacket hlen hrx).withErr .ok)

theorem execImgClr_inv {s : State} (h : s.Inv) : InvAfter (execImgClr s) := by
  rcases execImgClr_cases s with ⟨-, hex⟩ | ⟨ha, hex⟩
  · exact invAfter_of_next hex (h.withErr _)
  · exact invAfter_of_next hex ((h.clearStore ha).withErr .ok)

theorem replayData_inv {s : State} (h : s.Inv) (ha : s.seq.active = false) :
    InvAfter (replayData Config.maxBlocks s) := by
  rcases replayData_cases Config.maxBlocks s with ⟨-, hex⟩ | ⟨-, -, hex⟩ | ⟨hrange, hroom, hex⟩
  · exact invAfter_of_next hex (h.withErr _)
  · exact invAfter_of_next hex (h.withErr _)
  · exact invAfter_of_next hex ((h.appendRecord ha hrange hroom).withErr .ok)

theorem replaySegment_inv {s : State} (h : s.Inv) : InvAfter (replaySegment s) :=
  invAfter_of_next (replaySegment_eq s) ((h.setImgBase s.recValue (by decide)).withErr .ok)

theorem replayLinear_inv {s : State} (h : s.Inv) : InvAfter (replayLinear s) :=
  invAfter_of_next (replayLinear_eq s) ((h.setImgBase s.recValue le_rfl).withErr .ok)

theorem replayIgnored_inv {s : State} (h : s.Inv) : InvAfter (replayIgnored s) :=
  invAfter_of_next (replayIgnored_eq s) (h.withErr .ok)

theorem replay_inv {s : State} (h : s.Inv) (ha : s.seq.active = false) (c : Byte) : InvAfter (replay c s) := by
  rcases replay_cases c s with ⟨-, hr⟩ | ⟨-, hr⟩ | ⟨-, hr⟩ | ⟨-, -, -, hr⟩ <;> rw [hr]
  · exact replayData_inv h ha
  · exact replaySegment_inv h
  · exact replayLinear_inv h
  · exact replayIgnored_inv h

/-- The window registers are the host's, and no clause speaks of them (R42). -/
theorem execImgWin_inv {s : State} (h : s.Inv) : InvAfter (execImgWin s) := by
  rcases execImgWin_cases s with ⟨-, hex⟩ | ⟨-, hex⟩
  · exact invAfter_of_next hex (h.withErr _)
  · exact invAfter_of_next hex { h with }

theorem execImgHash_inv {s : State} (h : s.Inv) : InvAfter (execImgHash s) := by
  rcases execImgHash_cases s with ⟨-, hex⟩ | ⟨hlt, hex⟩
  · exact invAfter_of_next hex (h.withErr _)
  · exact invAfter_of_next hex ((h.storeDigest hlt).withErr .ok)

theorem execMrgStart_inv {s : State} (h : s.Inv) : InvAfter (execMrgStart s) := by
  rcases execMrgStart_cases s with ⟨-, hex⟩ | ⟨-, -, hex⟩ | ⟨-, -, -, hex⟩ | ⟨-, hc, -, hex⟩
  · exact invAfter_of_next hex (h.withErr _)
  · exact invAfter_of_next hex (h.withErr _)
  · exact invAfter_of_next hex (h.withErr _)
  · exact invAfter_of_next hex ((h.startSequence hc).withErr .ok)

/-- `CURSOR` is under no clause: what counts is the planned frame in TXBUF and the move to AWAIT. -/
theorem execMrgNext_inv {s : State} (h : s.Inv) : InvAfter (execMrgNext s) := by
  rcases execMrgNext_cases s with ⟨-, hex⟩ | ⟨-, -, hex⟩ | ⟨_, -, -, -, hex⟩ | ⟨e, hs, he, -, hex⟩
  · exact invAfter_of_next hex (h.withErr _)
  · exact invAfter_of_fault hex
  · exact invAfter_of_fault hex
  · obtain ⟨payload, hlen, hframe⟩ := (h.shape (by simp [hs])).entry (List.mem_of_getElem? he)
    have hsent := (h.setSeq (.inl hs) (.inl rfl)).storeTx (kind := Config.kindFlashData) (by decide) hlen
    rw [← hframe] at hsent
    exact invAfter_of_next hex { hsent with }

theorem execMrgAck_inv {s : State} (h : s.Inv) : InvAfter (execMrgAck s) := by
  rcases execMrgAck_cases s with ⟨-, hex⟩ | ⟨e, hs, -, -, hex⟩ |
    ⟨p, hs, -, hlen, hrx, ⟨-, hex⟩ | ⟨-, -, hex⟩ | ⟨e, -, he, hex⟩⟩
  · exact invAfter_of_next hex (h.withErr _)
  · exact invAfter_of_next hex ((h.clearDecValid.setSeq (.inr hs) (.inr rfl)).withErr e)
  · exact invAfter_of_next hex (((h.storePacket hlen hrx).setSeq (.inr hs) (.inr rfl)).withErr _)
  · exact invAfter_of_fault hex
  · exact invAfter_of_next hex (((h.storePacket hlen hrx).acknowledge hs he).withErr .ok)

theorem execMrgAbort_inv {s : State} (h : s.Inv) (c : Byte) : InvAfter (execMrgAbort c s) := by
  rcases execMrgAbort_cases c s with ⟨ha, hex⟩ | ⟨-, hex⟩
  · have hfailed := h.setSeq ((SeqState.active_iff _).1 ha) (.inr rfl)
    exact invAfter_of_next hex { hfailed with }
  · exact invAfter_of_next hex (h.withErr _)

/-- Every instruction keeps the invariant, the kind and record rows of log entry 2 among them. -/
theorem exec_inv {s : State} (h : s.Inv) (i : Instr) : InvAfter (exec i s) := by
  cases i with
  | crcInit | crcByte | crcBuf => exact invAfter_of_next (succeed_eq _) { h with }
  | frmEnc => exact execFrmEnc_inv h
  | frmDec => exact execFrmDec_inv h
  | frmVal => exact invAfter_of_next (execFrmVal_eq s) (h.withErr _)
  | frmVack => exact invAfter_of_next (execFrmVack_eq s) (h.withErr _)
  | imgClr => exact execImgClr_inv h
  | imgRec => exact unlessActive_inv h (fun ha => replay_inv h ha s.recType)
  | imgWin => exact execImgWin_inv h
  | imgHash => exact execImgHash_inv h
  | mrgStart => exact execMrgStart_inv h
  | mrgNext => exact execMrgNext_inv h
  | mrgAck => exact execMrgAck_inv h
  | mrgAbort c => exact execMrgAbort_inv h c
  | kindInvalid | kindFlashStart | kindFlashData | kindFlashMac | kindValidateFlash | kindSendSignature =>
    exact frameKind_inv h (by decide)
  | recData => exact unlessActive_inv h (replayData_inv h)
  | recExtSegment => exact unlessActive_inv h (fun _ => replaySegment_inv h)
  | recExtLinear => exact unlessActive_inv h (fun _ => replayLinear_inv h)
  | recEof | recStartSegment | recStartLinear => exact unlessActive_inv h (fun _ => replayIgnored_inv h)

/-! ### Every host action keeps the invariant -/

/-- The unit does nothing between host actions (R8). -/
theorem step_of_idle {s : State} (h : s.port.pending = []) : step s = .next s := by
  simp [step, h]

/-- Settles O51: after reset no block is stored, no sequence is planned, and every buffer fits. -/
theorem resetMeetsTheInvariant : Obligations.ResetMeetsTheInvariant where
  memory := Memory.wf_reset
  store := Nat.zero_le _
  blocks := nofun
  base := Nat.zero_le _
  decoded := nofun
  frame := .inl rfl
  index := le_rfl
  ended := by decide
  started := by decide
  shape := fun hs => absurd rfl hs
  sent := rfl
  total := rfl
  locked := nofun
  digest := nofun

theorem issue_inv {s : State} (h : s.Inv) (w : Word) : InvAfter (issue w s) := by
  unfold issue
  split
  · exact exec_inv h _
  · exact invAfter_of_next (raise_eq _ _) (h.withErr _)

theorem hostWrite_inv {s : State} (h : s.Inv) (off : Byte) (v : Word) : InvAfter (hostWrite off v s) := by
  unfold hostWrite
  split
  · split
    · exact issue_inv (h.writeReg .cmd v) v
    · exact invAfter_of_next rfl (h.writeOffset off v)
  · exact invAfter_of_fault rfl

theorem hostRead_inv {s : State} (h : s.Inv) (off : Byte) : InvAfter (hostRead off s) := by
  unfold hostRead
  split
  · exact invAfter_of_next rfl (h.withReply _)
  · exact invAfter_of_fault rfl

theorem hostLoad_inv {s : State} (h : s.Inv) (b : Buffer) (bytes : List Byte) : InvAfter (hostLoad b bytes s) := by
  unfold hostLoad
  split
  · next hb =>
    split
    · next hlen => exact invAfter_of_next rfl (h.setBuf hb hlen)
    · exact invAfter_of_fault rfl
  · exact invAfter_of_fault rfl

theorem hostReset_inv (s : State) : InvAfter (hostReset s) :=
  have h : State.reset.Inv := resetMeetsTheInvariant
  invAfter_of_next rfl { h with }

theorem perform_inv {s : State} (h : s.Inv) (a : HostAction) : InvAfter (perform a s) := by
  cases a with
  | writeReg off v => exact hostWrite_inv h off v
  | readReg off => exact hostRead_inv h off
  | load b bytes => exact hostLoad_inv h b bytes
  | readBuf b => exact invAfter_of_next rfl (h.withReply _)
  | reset => exact hostReset_inv s

/-- Settles O52: a step serves one host action or none, and each action, a command among them, is made of operations that
keep the invariant. -/
theorem everyStepKeepsTheInvariant : Obligations.EveryStepKeepsTheInvariant := by
  intro s t h hstep
  cases hp : s.port.pending with
  | nil => exact invAfter_of_next (step_of_idle hp) h t hstep
  | cons a rest =>
    rw [step_of_pending hp] at hstep
    exact perform_inv (h.withPending rest) a t hstep

end Sys2Proof.Machine
end

/-! ## Proofs of the state family: the register map, what registers read, and host accesses (R24 to R56, R61, R220) -/

section
namespace Sys2Proof.Machine

/-! ### The register map (R54) -/

@[simp] theorem Reg.ofOffset_offset (r : Reg) : Reg.ofOffset r.offset = some r := by cases r <;> rfl

/-- A register is found at no offset but its own. -/
theorem Reg.offset_of_ofOffset {off : Byte} {r : Reg} (h : Reg.ofOffset off = some r) : r.offset = off := by
  unfold Reg.ofOffset at h
  split at h <;> cases h <;> exact BitVec.eq_of_toNat_eq (Eq.symm ‹_›)

theorem Reg.ofOffset_eq_some_iff (off : Byte) (r : Reg) : Reg.ofOffset off = some r ↔ r.offset = off :=
  ⟨Reg.offset_of_ofOffset, fun h => h ▸ r.ofOffset_offset⟩

theorem Reg.offset_aligned (r : Reg) : r.offset.toNat % 4 = 0 := by cases r <;> rfl

/-- Settles O7: each offset is its register's own, a multiple of 4, and the table's number. -/
theorem registerMapIsOneToOne : Obligations.RegisterMapIsOneToOne :=
  ⟨fun off r => ⟨r.ofOffset_eq_some_iff off, r.offset_aligned⟩, by decide⟩

/-! ### What registers read, as numbers -/

/-- Fields put together, as a number. -/
theorem toNat_append_eq_add {m n : Nat} (x : BitVec m) (y : BitVec n) :
    (x ++ y).toNat = x.toNat * 2 ^ n + y.toNat := by
  rw [BitVec.toNat_append, ← Nat.shiftLeft_add_eq_or_of_lt y.isLt, Nat.shiftLeft_eq]

theorem toNat_zeroExtend_word {n : Nat} (x : BitVec n) (h : n ≤ 32) : (x.zeroExtend 32).toNat = x.toNat :=
  BitVec.toNat_setWidth_of_le h

theorem statusWord_toNat (s : State) : (statusWord s).toNat =
    s.err.code.toNat + 256 * s.seq.code.toNat + 2048 * s.decValid.toNat + 4096 * s.digValid.toNat := by
  simp only [statusWord, toNat_append_eq_add, BitVec.toNat_ofBool, BitVec.toNat_zero]
  omega

theorem rxHdrWord_toNat (s : State) :
    (rxHdrWord s).toNat = s.rxMarker.toNat + 256 * s.rxKind.toNat + 65536 * s.rxHdrLen.toNat := by
  simp only [rxHdrWord, toNat_append_eq_add]
  omega

theorem expCtrlWord_toNat (s : State) :
    (expCtrlWord s).toNat = s.kindEn.toNat + 2 * s.payloadEn.toNat + 256 * s.expKind.toNat := by
  simp only [expCtrlWord, toNat_append_eq_add, BitVec.toNat_ofBool, BitVec.toNat_zero]
  omega

theorem recCtrlWord_toNat (s : State) : (recCtrlWord s).toNat = s.recType.toNat + 65536 * s.recOffset.toNat := by
  simp only [recCtrlWord, toNat_append_eq_add, BitVec.toNat_zero]
  omega

/-- `MAX_BLOCKS` is a 32-bit number (R10). -/
theorem maxBlocks_le : Config.maxBlocks ≤ Config.u32Max :=
  have h : Config.maxBlocks ≤ 16843009 := Config.maxBlocksLessOne.isLt
  h.trans (by decide)

/-- A buffer within a capacity has a length that 32 bits hold (R52). -/
theorem countWord_of_le_fcap {n : Nat} (h : n ≤ Config.fcap) : (countWord n).toNat = n :=
  countWord_of_le (h.trans (by decide))

/-- Settles O49: `STATUS` is its fields put together, and the five numbers are those of R26. -/
theorem statusRegisterLayout : Obligations.StatusRegisterLayout :=
  ⟨statusWord_toNat, by decide⟩

/-- Settles O50: the packed registers by their fields, the mirrors by the capacities of what they count. -/
theorem packedAndMirrorRegisters : Obligations.PackedAndMirrorRegisters := by
  intro s
  refine ⟨rxHdrWord_toNat s, expCtrlWord_toNat s, recCtrlWord_toNat s, fun hwf => ?_,
    fun h => countWord_of_le (h.trans maxBlocks_le), countWord_of_le, countWord_of_le,
    toNat_zeroExtend_word _ (by decide), toNat_zeroExtend_word _ (by decide), rfl, rfl, rfl, rfl, rfl, rfl,
    toNat_zeroExtend_word _ (by decide)⟩
  obtain ⟨hp, htx, hrx, hrp, hexp, hrd, -⟩ := (Memory.wf_iff s).1 hwf
  have hpcap : Config.pcap ≤ Config.fcap := by decide
  have hrdcap : Config.rdCap ≤ Config.fcap := by decide
  exact ⟨countWord_of_le_fcap htx, countWord_of_le_fcap hrx, countWord_of_le_fcap (hp.trans hpcap),
    countWord_of_le_fcap (hrp.trans hpcap), countWord_of_le_fcap (hexp.trans hpcap),
    countWord_of_le_fcap (hrd.trans hrdcap)⟩

/-! ### The reset event (R56, R220) -/

/-- Settles O57: the host's side is what `hostReset` takes over from the state before. -/
theorem resetKeepsTheHostsSide : Obligations.ResetKeepsTheHostsSide :=
  fun _ _ hpending => step_of_pending hpending

/-- No register shows the host's side (R57). -/
theorem readReg_withPort (r : Reg) (s : State) (p : HostPort) : readReg r { s with port := p } = readReg r s := by
  cases r <;> rfl

/-- Every register whose reset value is not listed apart reads 0 (R56). -/
theorem readReg_reset_of_not_mem {r : Reg} (h : r ∉ [Reg.crcAcc, .crcPoly, .crcInit, .maxPayload, .chunkSize]) :
    readReg r State.reset = 0#32 := by
  cases r with
  | crcAcc | crcPoly | crcInit | maxPayload | chunkSize => simp at h
  | _ => decide

/-- Settles O10: the step gives `State.reset` but for the host's side, which no register reads. -/
theorem resetGivesEveryResetValue : Obligations.ResetGivesEveryResetValue := by
  intro s rest hpending
  refine ⟨_, resetKeepsTheHostsSide s rest hpending, rfl, rfl, rfl, rfl, rfl,
    fun r hr => (readReg_withPort r _ _).trans (readReg_reset_of_not_mem hr), rfl, rfl, fun b hb => ?_, rfl, rfl, rfl⟩
  cases b with
  | digbuf => exact absurd rfl hb
  | _ => rfl

/-! ### Nothing stored: every buffer and every image address reads as before -/

theorem sameBytesExcept_of_buf {written : List Buffer} {s t : State} (h : ∀ b, b ∉ written → t.buf b = s.buf b) :
    sameBytesExcept written s t := fun b hb j => by rw [h b hb]

theorem sameImage_of_blk {s t : State} (h : t.blk = s.blk) : sameImage s t := fun x => by rw [h]

/-- Settles O16: each of the three commands ends with success after a write of `CRC_ACC`. -/
theorem crcCommandsFrame : Obligations.CrcCommandsFrame := by
  intro i s t hi hex
  have hacc : ∃ acc, t = ({ s with crcAcc := acc } : State).withErr .ok := by
    cases i with
    | crcInit | crcByte | crcBuf =>
      cases hex
      exact ⟨_, rfl⟩
    | _ => cases hi
  obtain ⟨acc, rfl⟩ := hacc
  exact ⟨rfl, sameBytesExcept_of_buf (fun b _ => by cases b <;> rfl), sameImage_of_blk rfl⟩

/-! ### What a host write stores (R55) -/

@[simp] theorem writeReg_cmd (r : Reg) (v : Word) (s : State) :
    (writeReg r v s).cmd = if r = .cmd then v else s.cmd := by cases r <;> rfl
@[simp] theorem writeReg_crcAcc (r : Reg) (v : Word) (s : State) :
    (writeReg r v s).crcAcc = if r = .crcAcc then v.extractLsb' 0 16 else s.crcAcc := by cases r <;> rfl
@[simp] theorem writeReg_crcPoly (r : Reg) (v : Word) (s : State) :
    (writeReg r v s).crcPoly = if r = .crcPoly then v.extractLsb' 0 16 else s.crcPoly := by cases r <;> rfl
@[simp] theorem writeReg_crcInit (r : Reg) (v : Word) (s : State) :
    (writeReg r v s).crcInit = if r = .crcInit then v.extractLsb' 0 16 else s.crcInit := by cases r <;> rfl
@[simp] theorem writeReg_txKind (r : Reg) (v : Word) (s : State) :
    (writeReg r v s).txKind = if r = .txKind then v.extractLsb' 0 8 else s.txKind := by cases r <;> rfl
@[simp] theorem writeReg_kindEn (r : Reg) (v : Word) (s : State) :
    (writeReg r v s).kindEn = if r = .expCtrl then v.getLsbD 0 else s.kindEn := by cases r <;> rfl
@[simp] theorem writeReg_payloadEn (r : Reg) (v : Word) (s : State) :
    (writeReg r v s).payloadEn = if r = .expCtrl then v.getLsbD 1 else s.payloadEn := by cases r <;> rfl
@[simp] theorem writeReg_expKind (r : Reg) (v : Word) (s : State) :
    (writeReg r v s).expKind = if r = .expCtrl then v.extractLsb' 8 8 else s.expKind := by cases r <;> rfl
@[simp] theorem writeReg_recType (r : Reg) (v : Word) (s : State) :
    (writeReg r v s).recType = if r = .recCtrl then v.extractLsb' 0 8 else s.recType := by cases r <;> rfl
@[simp] theorem writeReg_recOffset (r : Reg) (v : Word) (s : State) :
    (writeReg r v s).recOffset = if r = .recCtrl then v.extractLsb' 16 16 else s.recOffset := by cases r <;> rfl
@[simp] theorem writeReg_recValue (r : Reg) (v : Word) (s : State) :
    (writeReg r v s).recValue = if r = .recValue then v.extractLsb' 0 16 else s.recValue := by cases r <;> rfl
@[simp] theorem writeReg_winMin (r : Reg) (v : Word) (s : State) :
    (writeReg r v s).winMin = if r = .winMin then v else s.winMin := by cases r <;> rfl
@[simp] theorem writeReg_winMax (r : Reg) (v : Word) (s : State) :
    (writeReg r v s).winMax = if r = .winMax then v else s.winMax := by cases r <;> rfl
@[simp] theorem writeReg_maxPayload (r : Reg) (v : Word) (s : State) :
    (writeReg r v s).maxPayload = if r = .maxPayload then v.extractLsb' 0 16 else s.maxPayload := by cases r <;> rfl
@[simp] theorem writeReg_chunkSize (r : Reg) (v : Word) (s : State) :
    (writeReg r v s).chunkSize = if r = .chunkSize then v.extractLsb' 0 16 else s.chunkSize := by cases r <;> rfl
@[simp] theorem writeReg_metaMarker (r : Reg) (v : Word) (s : State) :
    (writeReg r v s).metaMarker = if r = .metaMarker then v else s.metaMarker := by cases r <;> rfl

@[simp] theorem writeReg_buf (r : Reg) (v : Word) (s : State) (b : Buffer) : (writeReg r v s).buf b = s.buf b := by
  cases b <;> simp [State.buf]

/-- A register reads its own fields only, and a write stores those of one register only. -/
theorem readReg_writeReg_of_ne {r q : Reg} (h : q ≠ r) (v : Word) (s : State) :
    readReg q (writeReg r v s) = readReg q s := by
  have h' := h.symm
  cases q <;> simp [readReg, statusWord, rxHdrWord, expCtrlWord, recCtrlWord, h']

/-- The low `n` bits of a word, read back from a field of `n` bits. -/
theorem zeroExtend_low (v : Word) (n : Nat) :
    (v.extractLsb' 0 n).zeroExtend 32 = v &&& BitVec.ofNat 32 (2 ^ n - 1) := by
  apply BitVec.eq_of_getLsbD_eq
  intro i hi
  simp only [BitVec.zeroExtend_eq_setWidth, BitVec.getLsbD_setWidth, BitVec.getLsbD_extractLsb', BitVec.getLsbD_and,
    BitVec.getLsbD_ofNat, Nat.testBit_two_pow_sub_one, hi, Nat.zero_add, decide_true, Bool.true_and, Bool.and_comm]

theorem and_fullMask (v : Word) : v = v &&& 0xFFFFFFFF#32 := BitVec.and_allOnes.symm

theorem expCtrl_fields (v : Word) :
    0#16 ++ v.extractLsb' 8 8 ++ 0#6 ++ BitVec.ofBool (v.getLsbD 1) ++ BitVec.ofBool (v.getLsbD 0) =
      v &&& 0x0000FF03#32 := by
  apply BitVec.eq_of_getLsbD_eq
  intro i hi
  simp only [BitVec.getLsbD_append, BitVec.getLsbD_and, BitVec.getLsbD_extractLsb', BitVec.getLsbD_ofBool]
  interval_cases i <;> simp

theorem recCtrl_fields (v : Word) : v.extractLsb' 16 16 ++ 0#8 ++ v.extractLsb' 0 8 = v &&& 0xFFFF00FF#32 := by
  apply BitVec.eq_of_getLsbD_eq
  intro i hi
  simp only [BitVec.getLsbD_append, BitVec.getLsbD_and, BitVec.getLsbD_extractLsb']
  interval_cases i <;> simp

/-- A register the host may write reads back the defined bits of what was written, and 0 in the others (R55, 1). -/
theorem readReg_writeReg_same {r : Reg} (h : r.writable = true) (v : Word) (s : State) :
    readReg r (writeReg r v s) = v &&& r.mask := by
  cases r with
  | cmd | winMin | winMax | metaMarker => exact and_fullMask v
  | crcAcc | crcPoly | crcInit | recValue | maxPayload | chunkSize => exact zeroExtend_low v 16
  | txKind => exact zeroExtend_low v 8
  | expCtrl => exact expCtrl_fields v
  | recCtrl => exact recCtrl_fields v
  | _ => cases h

/-- A write to a read-only register is ignored (R55, 2). -/
theorem writeReg_of_not_writable {r : Reg} (h : r.writable = false) (v : Word) (s : State) : writeReg r v s = s := by
  cases r with
  | cmd | crcAcc | crcPoly | crcInit | txKind | expCtrl | recCtrl | recValue | winMin | winMax | maxPayload | chunkSize
  | metaMarker => cases h
  | _ => rfl

/-! ### The register port (R55, R61) -/

theorem aligned_of_mod {off : Byte} (h : off.toNat % 4 = 0) : aligned off = true := by simp [aligned, h]

/-- A write at an aligned offset other than that of `CMD` only stores. -/
theorem hostWrite_of_ne_cmd {off : Byte} (ha : off.toNat % 4 = 0) (hcmd : Reg.ofOffset off ≠ some .cmd) (v : Word)
    (s : State) : hostWrite off v s = .next (writeOffset off v s) := by
  have hne : off ≠ Reg.offset .cmd := fun h => hcmd (h ▸ Reg.ofOffset_offset .cmd)
  rw [hostWrite, if_pos (aligned_of_mod ha), if_neg hne]

theorem hostRead_of_aligned {off : Byte} (ha : off.toNat % 4 = 0) (s : State) :
    hostRead off s = .next (s.withReply (.word (readOffset off s))) := by
  rw [hostRead, if_pos (aligned_of_mod ha)]

theorem writeOffset_of_mapped {off : Byte} {r : Reg} (h : Reg.ofOffset off = some r) (v : Word) (s : State) :
    writeOffset off v s = writeReg r v s := by
  simp [writeOffset, h]

/-- A write to an unmapped offset or to a read-only register stores nothing (R55, 2). -/
theorem writeOffset_of_not_writable {off : Byte} (h : ∀ r, Reg.ofOffset off = some r → r.writable = false) (v : Word)
    (s : State) : writeOffset off v s = s := by
  unfold writeOffset
  split
  · next r hr => exact writeReg_of_not_writable (h r hr) v s
  · rfl

theorem readOffset_of_mapped {off : Byte} {r : Reg} (h : Reg.ofOffset off = some r) (s : State) :
    readOffset off s = readReg r s := by
  simp [readOffset, h]

theorem readOffset_of_unmapped {off : Byte} (h : Reg.ofOffset off = none) (s : State) : readOffset off s = 0#32 := by
  simp [readOffset, h]

/-- The fields of the writable registers are all that a host write can change. -/
theorem writeReg_frame (r : Reg) (v : Word) (s : State) :
    let t := writeReg r v s
    t = { s with
        cmd := t.cmd, crcAcc := t.crcAcc, crcPoly := t.crcPoly, crcInit := t.crcInit, txKind := t.txKind
        kindEn := t.kindEn, payloadEn := t.payloadEn, expKind := t.expKind, recType := t.recType
        recOffset := t.recOffset, recValue := t.recValue, winMin := t.winMin, winMax := t.winMax
        maxPayload := t.maxPayload, chunkSize := t.chunkSize, metaMarker := t.metaMarker } := by
  cases r <;> rfl

theorem step_writeReg {s : State} {off : Byte} {v : Word} {rest : List HostAction}
    (hpending : s.port.pending = .writeReg off v :: rest) (ha : off.toNat % 4 = 0)
    (hcmd : Reg.ofOffset off ≠ some .cmd) : step s = .next (writeOffset off v (s.withPending rest)) :=
  (step_of_pending hpending).trans (hostWrite_of_ne_cmd ha hcmd v _)

/-- Settles O6: a write stores the defined bits of one register or nothing, and a read changes only the host's reply. -/
theorem hostRegisterAccess : Obligations.HostRegisterAccess := by
  refine ⟨fun r v s hw => readReg_writeReg_same hw v s, fun r q v s hne => readReg_writeReg_of_ne hne v s,
    fun r v s => ⟨writeReg_frame r v s, sameBytesExcept_of_buf (fun b _ => writeReg_buf r v s b),
      sameImage_of_blk (writeReg_blk r v s)⟩,
    fun s off v rest hpending ha => ⟨fun r hr hne _ => ?_, fun hro => ?_⟩, fun s off rest hpending ha => ?_⟩
  · have hcmd : Reg.ofOffset off ≠ some .cmd := by simpa [hr] using hne
    rw [step_writeReg hpending ha hcmd, writeOffset_of_mapped hr]
    rfl
  · have hcmd : Reg.ofOffset off ≠ some .cmd := fun h => Bool.noConfusion (hro .cmd h)
    rw [step_writeReg hpending ha hcmd, writeOffset_of_not_writable hro]
    rfl
  · have hread : step s = .next ((s.withPending rest).withReply (.word (readOffset off (s.withPending rest)))) :=
      (step_of_pending hpending).trans (hostRead_of_aligned ha _)
    exact ⟨_, hread, fun r hr => (readOffset_of_mapped hr _).trans (readReg_withPort r s _),
      fun hnone => readOffset_of_unmapped hnone _⟩

end Sys2Proof.Machine
end

/-! ## Proofs of the memory family: misaligned accesses, whole buffers, the top of the image, and the host's duties (R61 to R63, R205) -/

section
namespace Sys2Proof.Machine

/-! ### Register accesses off their alignment (R61) -/

theorem aligned_iff (off : Byte) : aligned off = true ↔ off.toNat % 4 = 0 := beq_iff_eq

theorem not_aligned_of_mod_ne {off : Byte} (h : off.toNat % 4 ≠ 0) : ¬ aligned off = true := mt (aligned_iff off).1 h

theorem hostWrite_of_misaligned {off : Byte} (h : off.toNat % 4 ≠ 0) (v : Word) (s : State) :
    hostWrite off v s = .fault .misalignedRegister := if_neg (not_aligned_of_mod_ne h)

theorem hostRead_of_misaligned {off : Byte} (h : off.toNat % 4 ≠ 0) (s : State) :
    hostRead off s = .fault .misalignedRegister := if_neg (not_aligned_of_mod_ne h)

/-- Settles O8: the write and the read both check the alignment before anything else. -/
theorem misalignedRegisterAccessHasNoStep : Obligations.MisalignedRegisterAccessHasNoStep := by
  rintro s off v rest hmis (hpending | hpending)
  · exact (step_of_pending hpending).trans (hostWrite_of_misaligned hmis v _)
  · exact (step_of_pending hpending).trans (hostRead_of_misaligned hmis _)

/-! ### The buffer port (R62) -/

theorem Buffer.loadable_iff (b : Buffer) : b.loadable = true ↔ b ∈ [Buffer.pbuf, .rxbuf, .expbuf, .rdbuf] := by
  cases b <;> decide

theorem hostLoad_of_allowed {b : Buffer} {bytes : List Byte} (hb : b.loadable = true)
    (hlen : bytes.length ≤ b.capacity) (s : State) : hostLoad b bytes s = .next (s.setBuf b bytes) := by
  rw [hostLoad, if_pos hb, if_pos hlen]

theorem hostLoad_of_not_loadable {b : Buffer} (hb : ¬ b.loadable = true) (bytes : List Byte) (s : State) :
    hostLoad b bytes s = .fault .bufferNotLoadable := if_neg hb

theorem hostLoad_of_too_long {b : Buffer} {bytes : List Byte} (hb : b.loadable = true)
    (hlen : ¬ bytes.length ≤ b.capacity) (s : State) : hostLoad b bytes s = .fault .loadAboveCapacity := by
  rw [hostLoad, if_pos hb, if_neg hlen]

theorem hostLoad_faults {b : Buffer} {bytes : List Byte} (h : ¬ (b.loadable = true ∧ bytes.length ≤ b.capacity))
    (s : State) : ∃ r, hostLoad b bytes s = .fault r := by
  by_cases hb : b.loadable = true
  · exact ⟨_, hostLoad_of_too_long hb (fun hlen => h ⟨hb, hlen⟩) s⟩
  · exact ⟨_, hostLoad_of_not_loadable hb bytes s⟩

/-- The contents of the four loadable buffers are all that a host load can change. -/
theorem setBuf_frame_of_loadable {b : Buffer} (hb : b.loadable = true) (bytes : List Byte) (s : State) :
    let t := s.setBuf b bytes
    t = { s with pbuf := t.pbuf, rxbuf := t.rxbuf, expbuf := t.expbuf, rdbuf := t.rdbuf } := by
  cases b with
  | pbuf | rxbuf | expbuf | rdbuf => rfl
  | txbuf | rpbuf | digbuf => cases hb

theorem withPending_buf (s : State) (p : List HostAction) (b : Buffer) : (s.withPending p).buf b = s.buf b := by
  cases b <;> rfl

/-- Settles O9: the load is one `setBuf` or a fault, and a read only leaves the content in the host's reply. -/
theorem hostBufferAccess : Obligations.HostBufferAccess := by
  refine ⟨fun s b bytes rest hpending => ?_, fun s b rest hpending => ?_⟩
  · rw [← Buffer.loadable_iff, step_of_pending hpending]
    refine ⟨fun ⟨hb, hlen⟩ => ?_, fun hno => hostLoad_faults hno _⟩
    exact ⟨_, hostLoad_of_allowed hb hlen _, State.buf_setBuf_self _ b bytes,
      fun c hc => (State.buf_setBuf_other _ b c bytes hc).trans (withPending_buf s rest c),
      setBuf_frame_of_loadable hb bytes _⟩
  · calc step s
      _ = hostReadBuf b (s.withPending rest) := step_of_pending hpending
      _ = .next ((s.withPending rest).withReply (.bytes (s.buf b))) := by rw [hostReadBuf, withPending_buf]

/-! ### The top of the image (R63, R143) -/

/-- Settles O56: a block ends at or below 0xFFFFFFFF, its exclusive end, so the address itself is outside it. -/
theorem topImageAddressIsNeverCovered : Obligations.TopImageAddressIsNeverCovered := by
  intro s x h hx
  refine imageByte_eq_none fun b hb ⟨_, hcovered⟩ => ?_
  obtain ⟨-, hstop⟩ := (Block.wf_iff b).1 (h.blocks b hb)
  have hend : b.addr.toNat + b.data.length ≤ 0xFFFFFFFF := hstop
  omega

/-! ### A well-formed action has a next state (R61, R62, R205) -/

theorem issue_completes {s : State} (h : s.Inv) (w : Word) : CompletesFrom s (issue w s) := by
  unfold issue
  split
  · exact everyInstructionCompletes _ s h
  · exact completesFrom_of_eq (raise_eq _ s) rfl rfl

theorem hostWrite_has_next {s : State} (h : s.Inv) {off : Byte} (ha : aligned off = true) (v : Word) :
    ∃ t, hostWrite off v s = .next t := by
  by_cases hcmd : off = Reg.offset .cmd
  · subst hcmd
    obtain ⟨t, hissue, -, -⟩ := issue_completes (h.writeReg .cmd v) v
    exact ⟨t, (hostWrite_cmd v s).trans hissue⟩
  · have hne : Reg.ofOffset off ≠ some .cmd := fun hof => hcmd (Reg.offset_of_ofOffset hof).symm
    exact ⟨_, hostWrite_of_ne_cmd ((aligned_iff off).1 ha) hne v s⟩

theorem perform_has_next {s : State} (h : s.Inv) {a : HostAction} (ha : a.wellFormed = true) :
    ∃ t, perform a s = .next t := by
  cases a with
  | writeReg off v => exact hostWrite_has_next h ha v
  | readReg off => exact ⟨_, hostRead_of_aligned ((aligned_iff off).1 ha) s⟩
  | load b bytes =>
    obtain ⟨hb, hlen⟩ : b.loadable = true ∧ bytes.length ≤ b.capacity := by simpa [HostAction.wellFormed] using ha
    exact ⟨_, hostLoad_of_allowed hb hlen s⟩
  | readBuf b => exact ⟨_, rfl⟩
  | reset => exact ⟨_, rfl⟩

/-- Settles O54: with no action pending the state stays, and the next action is well-formed by the host's duty. -/
theorem onlyHostDutiesStopTheMachine : Obligations.OnlyHostDutiesStopTheMachine := by
  intro s h hduty
  cases hp : s.port.pending with
  | nil => exact ⟨s, step_of_idle hp⟩
  | cons a rest =>
    rw [step_of_pending hp]
    exact perform_has_next (h.withPending rest) (hduty a (by simp [hp]))

end Sys2Proof.Machine
end

/-! ## Proofs of the encoding family: decode and encode, illegal words, and the kind and record rows (R81 to R100) -/

section
namespace Sys2Proof.Machine

/-! ### Decode undoes encode, and encode undoes decode -/

theorem decodeEncoded_encode (i : Instr) : decodeEncoded (encode i) = .instr i :=
  match i with
  | .crcInit => Laws.RoundTrip.crcInit
  | .crcByte imm => Laws.RoundTrip.crcByte imm
  | .crcBuf => Laws.RoundTrip.crcBuf
  | .frmEnc => Laws.RoundTrip.frmEnc
  | .frmDec => Laws.RoundTrip.frmDec
  | .frmVal => Laws.RoundTrip.frmVal
  | .frmVack => Laws.RoundTrip.frmVack
  | .imgClr => Laws.RoundTrip.imgClr
  | .imgRec => Laws.RoundTrip.imgRec
  | .imgWin => Laws.RoundTrip.imgWin
  | .imgHash => Laws.RoundTrip.imgHash
  | .mrgStart => Laws.RoundTrip.mrgStart
  | .mrgNext => Laws.RoundTrip.mrgNext
  | .mrgAck => Laws.RoundTrip.mrgAck
  | .mrgAbort imm => Laws.RoundTrip.mrgAbort imm
  | .kindInvalid => Laws.RoundTrip.kindInvalid
  | .kindFlashStart => Laws.RoundTrip.kindFlashStart
  | .kindFlashData => Laws.RoundTrip.kindFlashData
  | .kindFlashMac => Laws.RoundTrip.kindFlashMac
  | .kindValidateFlash => Laws.RoundTrip.kindValidateFlash
  | .kindSendSignature => Laws.RoundTrip.kindSendSignature
  | .recData => Laws.RoundTrip.recData
  | .recExtSegment => Laws.RoundTrip.recExtSegment
  | .recExtLinear => Laws.RoundTrip.recExtLinear
  | .recEof => Laws.RoundTrip.recEof
  | .recStartSegment => Laws.RoundTrip.recStartSegment
  | .recStartLinear => Laws.RoundTrip.recStartLinear

/-- A word without reserved bits is known by its OPC and its IMM8 (R81). -/
theorem commandWord_of_opc {w : Word} {opc : Byte} (hres : resOf w = 0#16) (hopc : (opcOf w).toNat = opc.toNat) :
    commandWord opc (immOf w) = w := by
  rw [← BitVec.eq_of_toNat_eq hopc]
  exact commandWord_fields hres

theorem plain_eq_instr {imm : Byte} {i j : Instr} (h : plain imm i = .instr j) : imm = 0#8 ∧ i = j := by
  unfold plain at h
  split at h
  · next himm => exact ⟨himm, Decoded.instr.inj h⟩
  · cases h

/-- A word whose OPC is that of the plain command `i` and whose IMM8 is accepted is the encoding of `i`. -/
theorem encode_of_plain {w : Word} {opc : Byte} {i j : Instr} (h : plain (immOf w) i = .instr j)
    (hi : encode i = .command (commandWord opc 0#8)) (hres : resOf w = 0#16)
    (hopc : (opcOf w).toNat = opc.toNat) : encode j = .command w := by
  obtain ⟨himm, rfl⟩ := plain_eq_instr h
  rw [hi, ← himm, commandWord_of_opc hres hopc]

/-- The opcode map of R82 read backwards: two commands with an immediate, the others plain, every other OPC illegal. -/
theorem encode_of_decode {w : Word} {i : Instr} (h : decode w = .instr i) : encode i = .command w := by
  unfold decode at h
  split at h
  · cases h
  · next hres =>
    have hres : resOf w = 0#16 := not_not.1 hres
    split at h
    case h_2 hopc | h_15 hopc =>
      cases h
      exact congrArg Encoded.command (commandWord_of_opc hres hopc)
    case h_16 => cases h
    all_goals
      next hopc => exact encode_of_plain h rfl hres hopc

theorem encode_of_decodeKind {b : Byte} {i : Instr} (h : decodeKind b = .instr i) : encode i = .kindCode b := by
  unfold decodeKind at h
  split at h <;> cases h <;> exact congrArg Encoded.kindCode (BitVec.eq_of_toNat_eq (Eq.symm ‹_›))

theorem encode_of_decodeRecord {b : Byte} {i : Instr} (h : decodeRecord b = .instr i) : encode i = .recordCode b := by
  unfold decodeRecord at h
  split at h <;> cases h <;> exact congrArg Encoded.recordCode (BitVec.eq_of_toNat_eq (Eq.symm ‹_›))

/-- An encoded form of any of the three kinds decodes to an instruction exactly when it is that instruction's encoding. -/
theorem decodeEncoded_eq_instr_iff (e : Encoded) (i : Instr) : decodeEncoded e = .instr i ↔ encode i = e := by
  constructor
  · intro h
    cases e with
    | command w => exact encode_of_decode h
    | kindCode b => exact encode_of_decodeKind h
    | recordCode b => exact encode_of_decodeRecord h
  · rintro rfl
    exact decodeEncoded_encode i

/-- Settles O2: the agreement on every encoded form, read at a command word, and the round trip of every instruction. -/
theorem decodeAndEncodeAgree : Obligations.DecodeAndEncodeAgree :=
  ⟨fun w i => decodeEncoded_eq_instr_iff (.command w) i, decodeEncoded_encode⟩

/-! ### The legal words (R83) -/

theorem legalWord_commandWord {opc imm : Byte} (hopc : opc ∈ listedOpcs)
    (himm : imm = 0#8 ∨ opc = 0x02#8 ∨ opc = 0x33#8) : legalWord (commandWord opc imm) := by
  have ho : (commandWord opc imm).extractLsb' 0 8 = opc := opcOf_commandWord opc imm
  have hi : (commandWord opc imm).extractLsb' 8 8 = imm := immOf_commandWord opc imm
  rw [legalWord, ho, hi]
  exact ⟨hopc, resOf_commandWord opc imm, himm⟩

/-- Every listed OPC is that of a command, with IMM8 = 0 or, for the two that take one, with any immediate (R82). -/
theorem exists_encode_of_listed {opc imm : Byte} (hopc : opc ∈ listedOpcs)
    (himm : imm = 0#8 ∨ opc = 0x02#8 ∨ opc = 0x33#8) : ∃ i, encode i = .command (commandWord opc imm) := by
  rcases himm with rfl | rfl | rfl
  · have hlisted : ∀ o ∈ listedOpcs,
        ∃ i ∈ .crcByte 0#8 :: .mrgAbort 0#8 :: plainCommands, encode i = .command (commandWord o 0#8) := by decide
    obtain ⟨i, -, hi⟩ := hlisted opc hopc
    exact ⟨i, hi⟩
  · exact ⟨.crcByte imm, rfl⟩
  · exact ⟨.mrgAbort imm, rfl⟩

theorem exists_encode_iff_legalWord (w : Word) : (∃ i, encode i = .command w) ↔ legalWord w := by
  constructor
  · rintro ⟨i, hi⟩
    cases i with
    | kindInvalid | kindFlashStart | kindFlashData | kindFlashMac | kindValidateFlash | kindSendSignature | recData
    | recExtSegment | recExtLinear | recEof | recStartSegment | recStartLinear => cases hi
    | crcByte imm | mrgAbort imm =>
      cases hi
      exact legalWord_commandWord (by decide) (.inr (by decide))
    | _ =>
      cases hi
      exact legalWord_commandWord (by decide) (.inl rfl)
  · rintro ⟨hopc, hres, himm⟩
    rw [← commandWord_fields hres]
    exact exists_encode_of_listed hopc himm

theorem exists_decode_iff_legalWord (w : Word) : (∃ i, decode w = .instr i) ↔ legalWord w :=
  (exists_congr fun i => decodeEncoded_eq_instr_iff (.command w) i).trans (exists_encode_iff_legalWord w)

theorem issue_of_not_legal {w : Word} (h : ¬ legalWord w) (s : State) : issue w s = .next (s.withErr .illegalCmd) := by
  unfold issue
  split
  · next i hi => exact absurd ((exists_decode_iff_legalWord w).1 ⟨i, hi⟩) h
  · exact raise_eq _ s

/-- Settles O3: the words of commands are the encodings, which are the legal words; any other word is stored and raises. -/
theorem illegalWordsOnlyRaiseIllegalCmd : Obligations.IllegalWordsOnlyRaiseIllegalCmd := by
  refine ⟨exists_decode_iff_legalWord, fun s w rest hpending hillegal => ?_⟩
  calc step s
    _ = hostWrite (Reg.offset .cmd) w (s.withPending rest) := step_of_pending hpending
    _ = issue w { s.withPending rest with cmd := w } := hostWrite_cmd w _
    _ = .next (({ s.withPending rest with cmd := w } : State).withErr .illegalCmd) := issue_of_not_legal hillegal _

/-- Settles O1: seven closed words and codes, evaluated. -/
theorem decodesWordsOfTheOpcodeMap : Obligations.DecodesWordsOfTheOpcodeMap :=
  ⟨rfl, rfl, rfl, rfl, rfl, rfl, rfl⟩

/-! ### The kind rows (R88, log entry 2) -/

theorem exec_of_encode_kindCode {i : Instr} {b : Byte} (h : encode i = .kindCode b) (s : State) :
    exec i s = frameKind b s := by
  cases i with
  | kindInvalid | kindFlashStart | kindFlashData | kindFlashMac | kindValidateFlash | kindSendSignature =>
    cases h
    rfl
  | _ => cases h

theorem kindCode_le_maxKind {i : Instr} {b : Byte} (h : encode i = .kindCode b) : b.toNat ≤ Config.maxKind := by
  cases i with
  | kindInvalid | kindFlashStart | kindFlashData | kindFlashMac | kindValidateFlash | kindSendSignature =>
    cases h
    decide
  | _ => cases h

theorem exec_frmEnc_of_encode {i : Instr} {s : State} (h : encode i = .kindCode s.txKind) :
    exec .frmEnc s = exec i s := by
  rcases execFrmEnc_cases s with ⟨hbad, -⟩ | ⟨-, hframe⟩
  · exact absurd (kindCode_le_maxKind h) (Nat.not_le.2 hbad)
  · exact hframe.trans (exec_of_encode_kindCode h s).symm

/-- The two bytes of a length or a CRC as numbers, low byte first (R12). -/
theorem le16_ofNat (n : Nat) : le16 (BitVec.ofNat 16 n) = [BitVec.ofNat 8 n, BitVec.ofNat 8 (n / 256)] := by
  simp only [le16, List.cons.injEq, and_true]
  constructor <;> apply BitVec.eq_of_toNat_eq <;> simp [Nat.shiftRight_eq_div_pow]
  omega

theorem le16_eq_ofNat (v : Half) : le16 v = [BitVec.ofNat 8 v.toNat, BitVec.ofNat 8 (v.toNat / 256)] := by
  rw [← le16_ofNat, BitVec.ofNat_toNat, BitVec.setWidth_eq]

theorem frameHead_eq_ofNat (marker kind : Byte) (payload : List Byte) :
    frameHead marker kind (BitVec.ofNat 16 payload.length) payload =
      [marker, kind, BitVec.ofNat 8 payload.length, BitVec.ofNat 8 (payload.length / 256)] ++ payload := by
  rw [frameHead, le16_ofNat]
  rfl

/-- `frameKind` with the frame byte by byte: header, payload, CRC (R85, R87). -/
theorem frameKind_eq_bytes (kind : Byte) (s : State) :
    let head := [Config.startMarker, kind, BitVec.ofNat 8 s.pbuf.length, BitVec.ofNat 8 (s.pbuf.length / 256)] ++ s.pbuf
    let crc := frameCrc head
    frameKind kind s = .next { s with
      txbuf := head ++ [BitVec.ofNat 8 crc.toNat, BitVec.ofNat 8 (crc.toNat / 256)], txCrc := crc, err := .ok } := by
  intro head crc
  rw [frameKind_eq, encodeFrame, frameHead_eq_ofNat, le16_eq_ofNat]

/-- Settles O18: a kind row frames PBUF with its code, which is what `FRM.ENC` does with a code of at most 5. -/
theorem kindRowsFrameWithTheirCode : Obligations.KindRowsFrameWithTheirCode := by
  intro p hp
  have hcode : encode p.2 = .kindCode p.1 := by
    revert p
    decide
  exact fun s _ => ⟨(exec_of_encode_kindCode hcode s).trans (frameKind_eq_bytes p.1 s),
    fun hkind => exec_frmEnc_of_encode (hkind ▸ hcode)⟩

/-! ### The record rows (R94, log entry 2) -/

theorem unlessActive_congr {s : State} {f g : State → Outcome} (h : f s = g s) :
    unlessActive s f = unlessActive s g := by
  rw [unlessActive, unlessActive, h]

/-- `IMG.REC` with a record row's code in `REC_CTRL.TYPE` is that row (R143). -/
theorem exec_imgRec_of_encode {i : Instr} {s : State} (h : encode i = .recordCode s.recType) :
    exec .imgRec s = exec i s := by
  cases i with
  | recData | recExtSegment | recExtLinear | recEof | recStartSegment | recStartLinear =>
    refine unlessActive_congr (f := fun s => replay s.recType s) ?_
    rw [← Encoded.recordCode.inj h]
    rfl
  | _ => cases h

theorem replayData_of_room {n : Nat} {s : State} {a : Word} (ha : a.toNat = recordAddr s)
    (hrange : a.toNat + s.rdbuf.length ≤ Config.u32Max) (hroom : s.blk.length ≠ n) : replayData n s =
      .next { s with blk := s.blk ++ [{ addr := a, data := s.rdbuf }], digValid := false, err := .ok } := by
  have haddr : BitVec.ofNat 32 (recordAddr s) = a := by rw [← ha, BitVec.ofNat_toNat, BitVec.setWidth_eq]
  rw [← haddr]
  rcases replayData_cases n s with ⟨hout, -⟩ | ⟨-, hfull, -⟩ | ⟨-, -, hstored⟩
  · omega
  · exact absurd hfull hroom
  · exact hstored

/-- Settles O27: outside READY and AWAIT a row is the replay of its kind, and `IMG.REC` runs the row of its code. -/
theorem recordRowsReplayTheirKind : Obligations.RecordRowsReplayTheirKind := by
  constructor
  · intro s hinactive
    have hgo (f : State → Outcome) : unlessActive s f = f s := unlessActive_of_inactive hinactive
    exact ⟨fun a ha hrange hroom => (hgo _).trans (replayData_of_room ha hrange hroom.ne),
      (hgo _).trans (replaySegment_eq s), (hgo _).trans (replayLinear_eq s), (hgo _).trans (replayIgnored_eq s),
      (hgo _).trans (replayIgnored_eq s), (hgo _).trans (replayIgnored_eq s)⟩
  · intro p hp
    have hcode : encode p.2 = .recordCode p.1 := by
      revert p
      decide
    exact fun s htype => exec_imgRec_of_encode (htype ▸ hcode)

/-! ### The placing of a table word (log entries 2, 3 and 7) -/

theorem toOption_eq_some {d : Decoded} {i : Instr} (h : d.toOption = some i) : d = .instr i := by
  cases d with
  | instr j => exact congrArg Decoded.instr (Option.some.inj h)
  | illegal why => cases h

theorem decode_of_decodeTableWord {w : Nat} {i : Instr} (h : decodeTableWord 32 w = some i) :
    decode (BitVec.ofNat 32 w) = .instr i := by
  rw [decodeTableWord, if_pos rfl] at h
  split at h
  · exact toOption_eq_some h
  · cases h

theorem decodeRecord_of_decodeTableWord {w : Nat} {i : Instr} (h : decodeTableWord 8 w = some i) :
    decodeRecord (BitVec.ofNat 8 w) = .instr i := by
  rw [decodeTableWord, if_neg (by decide), if_pos rfl] at h
  split at h
  · exact toOption_eq_some h
  · cases h

/-- A placed command word is the host's next action, a write to `CMD`. -/
theorem step_placeCommand {w : Word} {i : Instr} (h : decode w = .instr i) (s : State) :
    step (placeCommand w s) = exec i { s with cmd := w } :=
  stepRunsTheDecodedCommand (placeCommand w s) w i s.port.pending rfl h

/-- Settles O5: a command word runs as the host's next write to `CMD`, a record code through the `IMG.REC` placed with it. -/
theorem placedTableWordRunsNext : Obligations.PlacedTableWordRunsNext := by
  refine ⟨fun s w i hw => step_placeCommand (decode_of_decodeTableWord hw) s, fun s w i hw => ?_⟩
  calc step (s.withFetchWord 8 w)
    _ = exec .imgRec { s with recType := BitVec.ofNat 8 w, cmd := 0x00000021#32 } := step_placeCommand rfl _
    _ = exec i { s with recType := BitVec.ofNat 8 w, cmd := 0x00000021#32 } :=
      exec_imgRec_of_encode (encode_of_decodeRecord (decodeRecord_of_decodeTableWord hw))

end Sys2Proof.Machine
end

/-! ## Proofs of the CRC engine: its three commands, the run of a byte sequence, and linearity (R110 to R116) -/

section
namespace Sys2Proof.Machine

/-! ### What each command leaves (R113, R114, R115) -/

theorem exec_crcInit (s : State) : exec .crcInit s = .next { s with crcAcc := s.crcInit, err := .ok } := rfl

theorem exec_crcByte (b : Byte) (s : State) :
    exec (.crcByte b) s = .next { s with crcAcc := crcStep s.crcAcc b s.crcPoly, err := .ok } := rfl

theorem exec_crcBuf (s : State) :
    exec .crcBuf s = .next { s with crcAcc := crc16 s.pbuf s.crcPoly s.crcInit, err := .ok } := rfl

/-- Settles O11: the word and the value after reset are closed, the step is that of R113. -/
theorem crcInitLoadsTheInitialValue : Obligations.CrcInitLoadsTheInitialValue :=
  ⟨rfl, exec_crcInit, _, exec_crcInit State.reset, rfl⟩

/-- Settles O13: the step of R115; over no bytes `crc16` is the initial value, over the nine digits it is evaluated. -/
theorem crcBufComputesTheCrcOfPbuf : Obligations.CrcBufComputesTheCrcOfPbuf := by
  refine ⟨rfl, fun s => ⟨exec_crcBuf s, fun hempty => ?_⟩, by decide +kernel⟩
  rw [exec_crcBuf, hempty, crc16_nil]

/-! ### The word and the step of `CRC.BYTE` (R82, R114) -/

theorem commandWord_eq_ofNat (opc imm : Byte) :
    commandWord opc imm = BitVec.ofNat 32 (imm.toNat * 256 + opc.toNat) := by
  apply BitVec.eq_of_toNat_eq
  simp only [commandWord, toNat_append_eq_add, BitVec.toNat_ofNat]
  omega

theorem decode_crcByte (b : Byte) : decode (BitVec.ofNat 32 (b.toNat * 256 + 2)) = .instr (.crcByte b) := by
  have hword : commandWord 0x02#8 b = BitVec.ofNat 32 (b.toNat * 256 + 2) := commandWord_eq_ofNat 0x02#8 b
  exact hword ▸ decodeEncoded_encode (.crcByte b)

theorem crcShift_zeroPoly (acc : Half) : crcShift 0#16 acc = acc <<< 1 := by
  rw [crcShift, BitVec.xor_zero, ite_self]

theorem crcShift_iterate_zeroPoly (n : Nat) (acc : Half) : (crcShift 0#16)^[n] acc = acc <<< n := by
  induction n with
  | zero => exact (BitVec.shiftLeft_zero acc).symm
  | succ n ih => rw [Function.iterate_succ_apply', ih, crcShift_zeroPoly, BitVec.shiftLeft_add]

/-- With the zero polynomial the byte is shifted out of the accumulator again (R114). -/
theorem crcStep_zeroPoly (acc : Half) (b : Byte) : crcStep acc b 0#16 = acc <<< 8 := by
  have hbyte : b.zeroExtend 16 <<< 8 <<< 8 = 0#16 := by
    rw [← BitVec.shiftLeft_add]
    exact BitVec.shiftLeft_eq_zero (by decide)
  rw [crcStep_def, crcShift_iterate_zeroPoly, BitVec.shiftLeft_xor_distrib, hbyte, BitVec.xor_zero]

theorem crcStep_zeroPoly_toNat (acc : Half) (b : Byte) :
    (crcStep acc b 0#16).toNat = acc.toNat % 256 * 256 := by
  rw [crcStep_zeroPoly, BitVec.toNat_shiftLeft, Nat.shiftLeft_eq]
  omega

/-! ### A run of `CRC.BYTE` commands -/

theorem execAll_cons_of_next {i : Instr} {s t : State} (h : exec i s = .next t) (is : List Instr) :
    execAll (i :: is) s = execAll is t := by
  rw [execAll, h]

/-- The accumulator goes through the recursion of `crc16`; each command after a successful one ends with success again. -/
theorem execAll_crcBytes (data : List Byte) (s : State) (h : s.err = .ok) :
    execAll (data.map Instr.crcByte) s = .next { s with crcAcc := crc16 data s.crcPoly s.crcAcc } := by
  induction data generalizing s with
  | nil => rfl
  | cons b data ih =>
    rw [List.map_cons, execAll_cons_of_next (exec_crcByte b s), ih _ rfl, crc16_cons, ← h]

/-- Settles O12: the word and the step, the shift of a zero polynomial, and the run of bytes after `CRC.INIT`. -/
theorem crcByteStepsTheAccumulator : Obligations.CrcByteStepsTheAccumulator := by
  refine ⟨fun b s => ⟨decode_crcByte b, exec_crcByte b s, fun hpoly => ?_⟩, fun data s => ?_, by decide⟩
  · rw [hpoly, crcStep_zeroPoly_toNat]
  · rw [execAll_cons_of_next (exec_crcInit s), execAll_crcBytes data _ rfl]

/-! ### Linearity (R110, R116) -/

theorem xor_shiftedByte (a c : Half) (b d : Byte) :
    (a ^^^ c) ^^^ (b ^^^ d).zeroExtend 16 <<< 8 =
      (a ^^^ b.zeroExtend 16 <<< 8) ^^^ (c ^^^ d.zeroExtend 16 <<< 8) := by
  rw [BitVec.zeroExtend, BitVec.setWidth_xor, BitVec.shiftLeft_xor_distrib]
  ac_rfl

theorem crcStep_xor (a c : Half) (b d : Byte) (poly : Half) :
    crcStep (a ^^^ c) (b ^^^ d) poly = crcStep a b poly ^^^ crcStep c d poly := by
  simp only [crcStep_def, xor_shiftedByte, crcShift_iterate_xor]

/-- The two runs differ in each step by the step of a zero byte, the sum of a byte with itself. -/
theorem crc16_xor_crc16 (x : List Byte) (poly i1 i2 : Half) :
    crc16 x poly i1 ^^^ crc16 x poly i2 = crc16 (List.replicate x.length 0#8) poly (i1 ^^^ i2) := by
  induction x generalizing i1 i2 with
  | nil => rfl
  | cons b x ih =>
    rw [crc16_cons, crc16_cons, ih, ← crcStep_xor, BitVec.xor_self, List.length_cons, List.replicate_succ, crc16_cons]

/-- Settles O14: the step is linear, hence so is the run, and the two orders of two bytes are evaluated. -/
theorem crcIsLinearAndOrderSensitive : Obligations.CrcIsLinearAndOrderSensitive :=
  ⟨crcStep_xor, crc16_xor_crc16, by decide +kernel, by decide +kernel⟩

end Sys2Proof.Machine
end

/-! ## Proofs of the frame codec: encode, decode and validate, the commands on them, and single-bit errors (R120 to R128) -/

section
namespace Sys2Proof.Machine

/-! ### What `FRM.ENC` and `FRM.DEC` leave (R121, R123) -/

theorem exec_frmEnc_of_le {s : State} (h : s.txKind.toNat ≤ Config.maxKind) :
    exec .frmEnc s = frameKind s.txKind s :=
  if_neg (Nat.not_lt.2 h)

theorem exec_frmEnc_of_lt {s : State} (h : Config.maxKind < s.txKind.toNat) :
    exec .frmEnc s = .next (s.withErr .badKind) :=
  if_pos h

theorem exec_frmDec_of_error {s : State} {e : ErrCode} (h : decodeFrame s.rxbuf = .error e) :
    exec .frmDec s = .next { s with decValid := false, err := e } := by
  show execFrmDec s = _
  rw [execFrmDec, h]
  rfl

theorem exec_frmDec_of_ok {s : State} {p : Packet} (h : decodeFrame s.rxbuf = .ok p) :
    exec .frmDec s = .next ((s.storePacket p).withErr .ok) := by
  show execFrmDec s = _
  rw [execFrmDec, h]
  rfl

/-- Settles O17: a kind of at most 5 is framed byte by byte, any other is refused. -/
theorem frmEncWritesTheFrame : Obligations.FrmEncWritesTheFrame :=
  ⟨rfl, fun s _ => ⟨fun hkind => (exec_frmEnc_of_le hkind).trans (frameKind_eq_bytes s.txKind s), exec_frmEnc_of_lt⟩⟩

/-- Settles O19: the cases are those of `decodeFrame`, whose length field is read low byte first. -/
theorem frmDecTakesTheFrameApart : Obligations.FrmDecTakesTheFrameApart := by
  refine ⟨rfl, fun s hshort => exec_frmDec_of_error (decodeFrame_short hshort),
    fun s marker kind l0 l1 c0 c1 payload hrx => ?_⟩
  have hlen : (l1 ++ l0 : Half).toNat = l0.toNat + 256 * l1.toNat := by rw [toNat_append_eq_add]; omega
  have hdec := decodeFrame_rawFrame marker kind l0 l1 payload c0 c1
  rw [hlen, rawFrame, ← hrx] at hdec
  exact ⟨fun hne => exec_frmDec_of_error (hdec.trans (if_neg hne)),
    fun heq => exec_frmDec_of_ok (hdec.trans (if_pos heq))⟩

/-! ### The checks of the validator (R124 to R126) -/

theorem any_ne_iff_not {α : Type} [BEq α] [LawfulBEq α] (o : Option α) (x : α) :
    o.any (fun k => x != k) = true ↔ ¬ ∀ k, o = some k → x = k := by
  rw [any_ne_iff]
  push Not
  rfl

theorem validate_of_marker_ne {p : Packet} (hm : p.marker ≠ Config.startMarker) (ek : Option Byte)
    (ep : Option (List Byte)) : validate p ek ep = .badMarker :=
  if_pos hm

theorem validate_of_kind_ne {p : Packet} {ek : Option Byte} (hm : p.marker = Config.startMarker)
    (hk : ¬ ∀ k, ek = some k → p.kind = k) (ep : Option (List Byte)) : validate p ek ep = .unexpKind := by
  rw [validate, if_neg (not_not.2 hm), if_pos ((any_ne_iff_not _ _).2 hk)]

theorem validate_of_payload_ne {p : Packet} {ek : Option Byte} {ep : Option (List Byte)}
    (hm : p.marker = Config.startMarker) (hk : ∀ k, ek = some k → p.kind = k)
    (hp : ¬ ∀ e, ep = some e → p.payload = e) : validate p ek ep = .unexpPayload := by
  rw [validate, if_neg (not_not.2 hm), if_neg (mt (any_ne_iff_not _ _).1 (not_not.2 hk)), if_pos ((any_ne_iff_not _ _).2 hp)]

/-- When marker, kind and payload pass, the CRC decides. -/
theorem validate_of_fields_eq {p : Packet} {ek : Option Byte} {ep : Option (List Byte)}
    (hm : p.marker = Config.startMarker) (hk : ∀ k, ek = some k → p.kind = k)
    (hp : ∀ e, ep = some e → p.payload = e) : validate p ek ep =
      if frameCrc (frameHead p.marker p.kind p.len p.payload) ≠ p.crcRx then .crcMismatch else .ok := by
  rw [validate, if_neg (not_not.2 hm), if_neg (mt (any_ne_iff_not _ _).1 (not_not.2 hk)),
    if_neg (mt (any_ne_iff_not _ _).1 (not_not.2 hp))]

theorem crc_eq_of_validate_ok {p : Packet} {ek : Option Byte} {ep : Option (List Byte)} (h : validate p ek ep = .ok) :
    frameCrc (frameHead p.marker p.kind p.len p.payload) = p.crcRx := by
  rcases validate_cases p ek ep with ⟨_, hv⟩ | ⟨_, _, hv⟩ | ⟨_, _, _, hv⟩ | ⟨_, _, _, _, hv⟩ | ⟨_, _, _, hcrc, _⟩
  case inr.inr.inr.inr => exact hcrc
  all_goals rw [hv] at h; cases h

/-- The outcome of a validation of the decoded packet of `s` under a kind and a payload expectation: `E_NO_FRAME`
without a packet, else the first of the four checks that fails. -/
def ChecksInOrder (s : State) (kindOk payloadOk : Prop) (o : Outcome) : Prop :=
  let markerOk := s.rxMarker = Config.startMarker
  let crcOk := frameCrc (frameHead s.rxMarker s.rxKind s.rxHdrLen s.rpbuf) = s.rxCrc
  (s.decValid = false → o = .next (s.withErr .noFrame)) ∧
  (s.decValid = true →
    (¬ markerOk → o = .next (s.withErr .badMarker)) ∧
    (markerOk ∧ ¬ kindOk → o = .next (s.withErr .unexpKind)) ∧
    (markerOk ∧ kindOk ∧ ¬ payloadOk → o = .next (s.withErr .unexpPayload)) ∧
    (markerOk ∧ kindOk ∧ payloadOk ∧ ¬ crcOk → o = .next (s.withErr .crcMismatch)) ∧
    (markerOk ∧ kindOk ∧ payloadOk ∧ crcOk → o = .next (s.withErr .ok)))

theorem validateDecoded_of_decValid {s : State} {ek : Option Byte} {ep : Option (List Byte)} {e : ErrCode}
    (hd : s.decValid = true) (h : validate s.packet ek ep = e) : validateDecoded ek ep s = .next (s.withErr e) := by
  rw [validateDecoded_eq, if_pos hd, h]

theorem validateDecoded_checksInOrder {s : State} {ek : Option Byte} {ep : Option (List Byte)} {kindOk payloadOk : Prop}
    (hk : kindOk ↔ ∀ k, ek = some k → s.rxKind = k) (hp : payloadOk ↔ ∀ e, ep = some e → s.rpbuf = e) :
    ChecksInOrder s kindOk payloadOk (validateDecoded ek ep s) := by
  rw [hk, hp]
  refine ⟨fun hd => ?_, fun hd => ⟨fun hm => ?_, fun ⟨hm, hk⟩ => ?_, fun ⟨hm, hk, hp⟩ => ?_, fun ⟨hm, hk, hp, hc⟩ => ?_,
    fun ⟨hm, hk, hp, hc⟩ => ?_⟩⟩
  · rw [validateDecoded_eq, hd]
    rfl
  · exact validateDecoded_of_decValid hd (validate_of_marker_ne hm ek ep)
  · exact validateDecoded_of_decValid hd (validate_of_kind_ne hm hk ep)
  · exact validateDecoded_of_decValid hd (validate_of_payload_ne hm hk hp)
  · exact validateDecoded_of_decValid hd ((validate_of_fields_eq hm hk hp).trans (if_pos hc))
  · exact validateDecoded_of_decValid hd ((validate_of_fields_eq hm hk hp).trans (if_neg (not_not.2 hc)))

/-- An expectation that an enable bit switches on binds only while the bit is 1 (R36, R125). -/
theorem expected_if_iff {α : Type} (en : Bool) (x e : α) :
    (en = true → x = e) ↔ ∀ k, (if en then some e else none) = some k → x = k := by
  cases en <;> simp

/-- Settles O20: the expectations of `FRM.VAL` are those of `EXP_CTRL`, each under its enable. -/
theorem frmValChecksInOrder : Obligations.FrmValChecksInOrder :=
  ⟨rfl, fun s => validateDecoded_checksInOrder (expected_if_iff s.kindEn _ _) (expected_if_iff s.payloadEn _ _)⟩

/-- Settles O21: the expectations of `FRM.VACK` are `EXP_KIND` and the ACK payload, always. -/
theorem frmVackChecksAnAck : Obligations.FrmVackChecksAnAck :=
  ⟨rfl, fun _ => validateDecoded_checksInOrder (by simp) (by simp [ackPayload])⟩

/-! ### The round trip (R127) -/

/-- The packet of an encoded frame. -/
def encodedPacket (kind : Byte) (payload : List Byte) : Packet where
  marker := Config.startMarker
  kind := kind
  len := BitVec.ofNat 16 payload.length
  payload := payload
  crcRx := frameCrc (frameHead Config.startMarker kind (BitVec.ofNat 16 payload.length) payload)

theorem encodedPacket_len_toNat (kind : Byte) {payload : List Byte} (h : payload.length ≤ Config.pcap) :
    (encodedPacket kind payload).len.toNat = payload.length :=
  Nat.mod_eq_of_lt (Nat.lt_succ_of_le h)

theorem decodeFrame_encodeFrame (kind : Byte) {payload : List Byte} (h : payload.length ≤ Config.pcap) :
    decodeFrame (encodeFrame kind payload) = .ok (encodedPacket kind payload) := by
  rw [encodeFrame_eq_rawFrame, decodeFrame_rawFrame, le16_join, le16_join]
  exact if_pos (encodedPacket_len_toNat kind h)

theorem validate_encodedPacket (kind : Byte) (payload : List Byte) {ek : Option Byte} {ep : Option (List Byte)}
    (hk : ek = some kind ∨ ek = none) (hp : ep = some payload ∨ ep = none) :
    validate (encodedPacket kind payload) ek ep = .ok := by
  have hkind : ∀ k, ek = some k → kind = k := by rcases hk with rfl | rfl <;> simp
  have hpayload : ∀ e, ep = some e → payload = e := by rcases hp with rfl | rfl <;> simp
  exact (validate_of_fields_eq rfl hkind hpayload).trans (if_neg (not_not.2 rfl))

/-- Settles O22: an encoded frame decodes to its packet, which validates; each command on the unit stores what the next
one reads. -/
theorem encodedFramesDecodeAndValidate : Obligations.EncodedFramesDecodeAndValidate := by
  refine ⟨fun k p _ hp => ⟨encodedPacket k p, decodeFrame_encodeFrame k hp, rfl, rfl, encodedPacket_len_toNat k hp, rfl,
    fun ek ep => validate_encodedPacket k p⟩, fun s hwf hkind => ?_⟩
  have hpbuf : s.pbuf.length ≤ Config.pcap := ((Memory.wf_iff s).1 hwf).1
  exact ⟨_, _, _, (exec_frmEnc_of_le hkind).trans (frameKind_eq s.txKind s),
    exec_frmDec_of_ok (decodeFrame_encodeFrame s.txKind hpbuf), execFrmVal_eq _,
    validate_encodedPacket s.txKind s.pbuf (.inl rfl) (.inl rfl)⟩

/-! ### The CRC loses no change of a byte (R110, R128) -/

theorem crcStep_injective_acc {poly : Half} (h : poly.getLsbD 0 = true) (b : Byte) :
    Function.Injective (crcStep · b poly) :=
  fun _ _ heq => (BitVec.xor_left_inj _).1 ((crcShift_injective h).iterate 8 heq)

theorem shiftedByte_injective : Function.Injective (fun b : Byte => b.zeroExtend 16 <<< 8) := by
  intro b c heq
  apply BitVec.eq_of_toNat_eq
  have hnat := congrArg BitVec.toNat heq
  simp only [BitVec.toNat_shiftLeft, BitVec.truncate_eq_setWidth, BitVec.toNat_setWidth, Nat.shiftLeft_eq] at hnat
  omega

theorem crcStep_injective_byte {poly : Half} (h : poly.getLsbD 0 = true) (acc : Half) :
    Function.Injective (crcStep acc · poly) :=
  fun _ _ heq => shiftedByte_injective ((BitVec.xor_right_inj _).1 ((crcShift_injective h).iterate 8 heq))

theorem crc16_injective_init {poly : Half} (h : poly.getLsbD 0 = true) (data : List Byte) :
    Function.Injective (crc16 data poly) := by
  induction data with
  | nil => exact fun _ _ heq => heq
  | cons b data ih => exact fun _ _ heq => crcStep_injective_acc h b (ih heq)

/-- Up to the changed byte the runs agree, there they part, and no later step joins them again. -/
theorem crc16_set_ne {poly : Half} (h : poly.getLsbD 0 = true) {data : List Byte} {i : Nat} {b : Byte}
    (hi : i < data.length) (hb : b ≠ data[i]) (init : Half) : crc16 (data.set i b) poly init ≠ crc16 data poly init := by
  induction data generalizing i init with
  | nil => exact absurd hi (Nat.not_lt_zero i)
  | cons c data ih =>
    cases i with
    | zero => exact fun heq => hb (crcStep_injective_byte h init (crc16_injective_init h data heq))
    | succ i => exact ih (Nat.lt_of_succ_lt_succ hi) hb (crcStep init c poly)

/-! ### Single-bit errors (R128) -/

theorem le16_injective : Function.Injective le16 := by
  intro v w heq
  obtain ⟨h0, h1⟩ : v.extractLsb' 0 8 = w.extractLsb' 0 8 ∧ v.extractLsb' 8 8 = w.extractLsb' 8 8 := by
    simpa [le16] using heq
  rw [← le16_join v, ← le16_join w, h0, h1]

theorem le16_append (b0 b1 : Byte) : le16 (b1 ++ b0) = [b0, b1] := by
  rw [le16_eq_ofNat, toNat_append_eq_add]
  simp only [List.cons.injEq, and_true]
  constructor <;> apply BitVec.eq_of_toNat_eq <;> simp only [BitVec.toNat_ofNat] <;> omega

/-- A frame that decodes is the fields of its packet, in the order of R85. -/
theorem eq_frameHead_append_of_decodeFrame {f : List Byte} {p : Packet} (h : decodeFrame f = .ok p) :
    f = frameHead p.marker p.kind p.len p.payload ++ le16 p.crcRx := by
  by_cases hshort : f.length < 6
  · rw [decodeFrame_short hshort] at h
    cases h
  · obtain ⟨marker, kind, l0, l1, payload, c0, c1, rfl⟩ := exists_rawFrame f (Nat.not_lt.1 hshort)
    rw [decodeFrame_rawFrame] at h
    split at h
    · cases h
      rw [frameHead, le16_append, le16_append]
      rfl
    · cases h

/-- The CRC of the head of an encoded frame differs when one byte of it differs. -/
theorem frameCrc_set_ne {data : List Byte} {i : Nat} {b : Byte} (hi : i < data.length) (hb : b ≠ data[i]) :
    frameCrc (data.set i b) ≠ frameCrc data :=
  crc16_set_ne (by decide) hi hb Config.frameInit

theorem xor_bit_ne (b : Byte) {bit : Nat} (h : bit < 8) : b ^^^ (1#8 <<< bit) ≠ b := by
  have hbit : 1#8 <<< bit ≠ 0#8 := by
    revert h bit
    decide
  exact fun heq => hbit ((BitVec.xor_right_inj b).1 (heq.trans BitVec.xor_zero.symm))

/-- Bytes before a CRC field that is not their CRC are caught: they do not decode, or their packet holds just them and
that CRC, so no expectations let it pass. -/
theorem wrong_crc_caught {head : List Byte} {crc : Half} (hlen : 4 ≤ head.length) (hne : frameCrc head ≠ crc) :
    decodeFrame (head ++ le16 crc) = .error .lenMismatch ∨
      ∃ q, decodeFrame (head ++ le16 crc) = .ok q ∧ ∀ ek ep, validate q ek ep ≠ .ok := by
  rcases decodeFrame_cases (head ++ le16 crc) with ⟨hshort, -⟩ | ⟨-, hbad⟩ | ⟨q, hq, -, -⟩
  · rw [List.length_append, le16_length] at hshort
    omega
  · exact .inl hbad
  · refine .inr ⟨q, hq, fun ek ep hok => hne ?_⟩
    obtain ⟨hhead, hcrc⟩ := List.append_inj' (eq_frameHead_append_of_decodeFrame hq) rfl
    rw [hhead, le16_injective hcrc]
    exact crc_eq_of_validate_ok hok

/-- Settles O23: the changed frame is the changed head before the CRC of the head that was encoded. -/
theorem singleBitErrorsAreCaught : Obligations.SingleBitErrorsAreCaught := by
  intro kind payload i bit _ hi hbit f g
  let head := frameHead Config.startMarker kind (BitVec.ofNat 16 payload.length) payload
  have hlen : head.length = 4 + payload.length := frameHead_length _ _ _ _
  have hlt : i < head.length := by omega
  have hbyte : f.getD i 0#8 = head[i] :=
    (List.getD_append head (le16 (frameCrc head)) 0#8 i hlt).trans (List.getD_eq_getElem head 0#8 hlt)
  have hg : g = head.set i (head[i] ^^^ 1#8 <<< bit) ++ le16 (frameCrc head) := by
    rw [← hbyte]
    exact List.set_append_left i _ hlt
  rw [hg]
  exact wrong_crc_caught (by rw [List.length_set]; omega) (frameCrc_set_ne hlt (xor_bit_ne head[i] hbit))

/-! ### What the commands leave unchanged (R33, R34, R121 to R126) -/

/-- `FRM.ENC` and the kind rows end after a write of TXBUF and `TX_CRC`, or with an error alone. -/
theorem exec_framing_writes_tx {i : Instr} {s t : State}
    (hi : i ∈ [Instr.frmEnc, .kindInvalid, .kindFlashStart, .kindFlashData, .kindFlashMac, .kindValidateFlash,
      .kindSendSignature]) (h : exec i s = .next t) : ∃ f c e, t = { s with txbuf := f, txCrc := c, err := e } := by
  have hframe {kind : Byte} (h : frameKind kind s = .next t) : ∃ f c e, t = { s with txbuf := f, txCrc := c, err := e } :=
    ⟨_, _, _, (Host.Outcome.next.inj h).symm⟩
  simp only [List.mem_cons, List.not_mem_nil, or_false] at hi
  rcases hi with rfl | rfl | rfl | rfl | rfl | rfl | rfl
  · rcases execFrmEnc_cases s with ⟨-, hbad⟩ | ⟨-, hgood⟩
    · exact ⟨s.txbuf, s.txCrc, .badKind, (Host.Outcome.next.inj (hbad.symm.trans h)).symm⟩
    · exact hframe (hgood.symm.trans h)
  all_goals exact hframe h

/-- `FRM.DEC` ends after a write of the decoded-packet registers, RPBUF and DEC_VALID. -/
theorem exec_frmDec_writes_packet {s t : State} (h : exec .frmDec s = .next t) : ∃ m k l p c v e,
    t = { s with rxMarker := m, rxKind := k, rxHdrLen := l, rpbuf := p, rxCrc := c, decValid := v, err := e } := by
  rcases execFrmDec_cases s with ⟨e, -, -, hbad⟩ | ⟨p, -, -, -, hgood⟩
  · exact ⟨s.rxMarker, s.rxKind, s.rxHdrLen, s.rpbuf, s.rxCrc, _, _, (Host.Outcome.next.inj (hbad.symm.trans h)).symm⟩
  · exact ⟨_, _, _, _, _, _, _, (Host.Outcome.next.inj (hgood.symm.trans h)).symm⟩

theorem exec_validating_writes_err {i : Instr} {s t : State} (hi : i ∈ [Instr.frmVal, .frmVack])
    (h : exec i s = .next t) : ∃ e, t = s.withErr e := by
  simp only [List.mem_cons, List.not_mem_nil, or_false] at hi
  rcases hi with rfl | rfl
  · exact ⟨_, (Host.Outcome.next.inj ((execFrmVal_eq s).symm.trans h)).symm⟩
  · exact ⟨_, (Host.Outcome.next.inj ((execFrmVack_eq s).symm.trans h)).symm⟩

/-- Settles O24: the fields each command writes hold one buffer at most and not the block store. -/
theorem frameCommandsFrame : Obligations.FrameCommandsFrame := by
  refine fun s t => ⟨fun i hi h => ?_, fun h => ?_, fun i hi h => ?_⟩
  · obtain ⟨f, c, e, rfl⟩ := exec_framing_writes_tx hi h
    refine ⟨rfl, sameBytesExcept_of_buf fun b hb => ?_, sameImage_of_blk rfl⟩
    cases b with
    | txbuf => exact absurd (List.mem_singleton_self _) hb
    | _ => rfl
  · obtain ⟨m, k, l, p, c, v, e, rfl⟩ := exec_frmDec_writes_packet h
    refine ⟨rfl, sameBytesExcept_of_buf fun b hb => ?_, sameImage_of_blk rfl⟩
    cases b with
    | rpbuf => exact absurd (List.mem_singleton_self _) hb
    | _ => rfl
  · obtain ⟨e, rfl⟩ := exec_validating_writes_err hi h
    exact ⟨rfl, sameBytesExcept_of_buf fun b _ => by cases b <;> rfl, sameImage_of_blk rfl⟩

end Sys2Proof.Machine
end

/-! ## Proofs of the image family: the block store, record replay, the window image and its digest (R140 to R149) -/

section
namespace Sys2Proof.Machine

/-! ### `IMG.CLR`: a new parse (R141) -/

theorem exec_imgClr_of_active {s : State} (h : s.seq = .ready ∨ s.seq = .await) :
    exec .imgClr s = .next { s with err := .seqState } := by
  rw [exec, execImgClr, unlessActive_of_active h]
  rfl

theorem exec_imgClr_of_inactive {s : State} (h : ¬ (s.seq = .ready ∨ s.seq = .await)) :
    exec .imgClr s = .next { s with blk := [], imgBase := 0#32, digValid := false, err := .ok } := by
  rw [exec, execImgClr, unlessActive_of_inactive h]
  rfl

/-- Settles O25: the check of the sequencer state comes first, and nothing else is checked. -/
theorem imgClrStartsANewParse : Obligations.ImgClrStartsANewParse :=
  ⟨rfl, fun _ => ⟨exec_imgClr_of_active, exec_imgClr_of_inactive⟩⟩

/-! ### `IMG.REC`: one record (R142, R143) -/

/-- Outside READY and AWAIT `IMG.REC` replays the record of the code in `REC_CTRL.TYPE`. -/
theorem exec_imgRec_of_inactive {s : State} (h : ¬ (s.seq = .ready ∨ s.seq = .await)) :
    exec .imgRec s = replay s.recType s := unlessActive_of_inactive h

theorem exec_imgRec_linear {s : State} (h : ¬ (s.seq = .ready ∨ s.seq = .await)) (htype : s.recType = 0x04#8) :
    exec .imgRec s = .next { s with imgBase := BitVec.ofNat 32 (s.recValue.toNat * 65536), err := .ok } :=
  (exec_imgRec_of_encode (i := .recExtLinear) (congrArg _ htype.symm)).trans
    ((unlessActive_of_inactive h).trans (replayLinear_eq s))

theorem exec_imgRec_segment {s : State} (h : ¬ (s.seq = .ready ∨ s.seq = .await)) (htype : s.recType = 0x02#8) :
    exec .imgRec s = .next { s with imgBase := BitVec.ofNat 32 (s.recValue.toNat * 16), err := .ok } :=
  (exec_imgRec_of_encode (i := .recExtSegment) (congrArg _ htype.symm)).trans
    ((unlessActive_of_inactive h).trans (replaySegment_eq s))

theorem exec_imgRec_data {s : State} (h : ¬ (s.seq = .ready ∨ s.seq = .await)) (htype : s.recType = 0x00#8) :
    exec .imgRec s = replayData Config.maxBlocks s :=
  (exec_imgRec_of_encode (i := .recData) (congrArg _ htype.symm)).trans (unlessActive_of_inactive h)

theorem exec_imgRec_ignored {s : State} (h : ¬ (s.seq = .ready ∨ s.seq = .await)) (hdata : s.recType ≠ 0x00#8)
    (hsegment : s.recType ≠ 0x02#8) (hlinear : s.recType ≠ 0x04#8) :
    exec .imgRec s = .next { s with err := .ok } := by
  rw [exec_imgRec_of_inactive h]
  rcases replay_cases s.recType s with ⟨h0, -⟩ | ⟨h2, -⟩ | ⟨h4, -⟩ | ⟨-, -, -, hreplay⟩
  · exact absurd h0 hdata
  · exact absurd h2 hsegment
  · exact absurd h4 hlinear
  · exact hreplay

theorem replayData_of_out_of_range {n : Nat} {s : State} (h : recordAddr s + s.rdbuf.length > Config.u32Max) :
    replayData n s = .next { s with err := .addrRange } := by
  rw [replayData, if_pos h]
  rfl

theorem replayData_of_full {n : Nat} {s : State} (hrange : recordAddr s + s.rdbuf.length ≤ Config.u32Max)
    (hfull : s.blk.length = n) : replayData n s = .next { s with err := .blockFull } := by
  rw [replayData, if_neg hrange.not_gt, if_pos hfull]
  rfl

/-- Settles O26: one case per kind of record, and for a data record one per check. -/
theorem imgRecReplaysTheRecord : Obligations.ImgRecReplaysTheRecord := by
  refine ⟨rfl, fun s => ⟨unlessActive_of_active, fun h => ⟨exec_imgRec_linear h, exec_imgRec_segment h,
    fun htype hout => ?_, fun htype hrange hfull => ?_, fun htype hrange hroom => ?_, exec_imgRec_ignored h⟩⟩⟩
  · exact (exec_imgRec_data h htype).trans (replayData_of_out_of_range hout)
  · exact (exec_imgRec_data h htype).trans (replayData_of_full hrange hfull)
  · have haddr : (BitVec.ofNat 32 (recordAddr s)).toNat = recordAddr s :=
      toNat_wordOfNat (Nat.lt_succ_of_le (Nat.le_of_add_right_le hrange))
    have hend := (Nat.add_le_add_right haddr.le s.rdbuf.length).trans hrange
    exact ⟨⟨BitVec.ofNat 32 (recordAddr s), s.rdbuf⟩, haddr, rfl,
      (exec_imgRec_data h htype).trans (replayData_of_room haddr hend hroom)⟩

/-! ### A record stream (R140) -/

theorem replayAll_cons_of_next {r : Record} {s t : State} (h : exec .imgRec (s.deliver r) = .next t) (hok : t.err = .ok)
    (rs : List Record) : replayAll (r :: rs) s = replayAll rs t := by
  rw [replayAll, h]
  exact if_pos hok

theorem parseRecords_linear {r : Record} (h : r.type = 0x04#8) (base : Nat) (rs : List Record) :
    parseRecords base (r :: rs) = parseRecords (r.value.toNat * 65536) rs := by
  rw [parseRecords, if_pos h]

theorem parseRecords_segment {r : Record} (h : r.type = 0x02#8) (base : Nat) (rs : List Record) :
    parseRecords base (r :: rs) = parseRecords (r.value.toNat * 16) rs := by
  rw [parseRecords, h]
  rfl

theorem parseRecords_data {r : Record} (h : r.type = 0x00#8) (base : Nat) (rs : List Record) :
    parseRecords base (r :: rs) =
      { addr := BitVec.ofNat 32 (base + r.offset.toNat), data := r.data } :: parseRecords base rs := by
  rw [parseRecords, h]
  rfl

theorem parseRecords_ignored {r : Record} (hdata : r.type ≠ 0x00#8) (hsegment : r.type ≠ 0x02#8)
    (hlinear : r.type ≠ 0x04#8) (base : Nat) (rs : List Record) :
    parseRecords base (r :: rs) = parseRecords base rs := by
  rw [parseRecords, if_neg hlinear, if_neg hsegment, if_neg hdata]

/-- The relation of the unit to a parse with records still to come, in which the whole stream emits `bs`: the blocks
stored so far and those still to be emitted from the running base are `bs`. -/
structure Replaying (bs : List Block) (s : State) (rs : List Record) : Prop where
  inactive : ¬ (s.seq = .ready ∨ s.seq = .await)
  /-- A running base leaves room for every 16-bit offset (R142). -/
  base : s.imgBase.toNat ≤ 0xFFFF0000
  blocks : s.blk ++ parseRecords s.imgBase.toNat rs = bs

/-- The base of an extended-address record: a 16-bit value times 16 or 65536, exactly and within the bound (R142). -/
theorem imgBase_toNat (v : Half) {k : Nat} (hk : k ≤ 65536) :
    (BitVec.ofNat 32 (v.toNat * k)).toNat = v.toNat * k ∧ v.toNat * k ≤ 0xFFFF0000 := by
  have hle : v.toNat * k ≤ 65535 * 65536 := Nat.mul_le_mul (Nat.le_of_lt_succ v.isLt) hk
  exact ⟨toNat_wordOfNat (hle.trans_lt (by decide)), hle⟩

/-- After an extended-address record the parse goes on from the new base. -/
theorem Replaying.setBase {bs : List Block} {s : State} {r : Record} {rs : List Record}
    (h : Replaying bs s (r :: rs)) {k : Nat} (hk : k ≤ 65536)
    (hparse : parseRecords s.imgBase.toNat (r :: rs) = parseRecords (r.value.toNat * k) rs) :
    Replaying bs { s.deliver r with imgBase := BitVec.ofNat 32 (r.value.toNat * k), err := .ok } rs := by
  obtain ⟨hexact, hle⟩ := imgBase_toNat r.value hk
  exact ⟨h.inactive, hexact.le.trans hle, by rw [← h.blocks, hparse, hexact]; rfl⟩

/-- `IMG.REC` does with the first record what the parse does: the store receives the blocks the parse emits for it. -/
theorem Replaying.step {bs : List Block} {s : State} {r : Record} {rs : List Record} (h : Replaying bs s (r :: rs))
    (hfit : bs.length ≤ Config.maxBlocks) (hend : ∀ b ∈ bs, b.addr.toNat + b.data.length ≤ 0xFFFFFFFF) :
    ∃ t, exec .imgRec (s.deliver r) = .next t ∧ t.err = .ok ∧ Replaying bs t rs := by
  have hinactive : ¬ ((s.deliver r).seq = .ready ∨ (s.deliver r).seq = .await) := h.inactive
  by_cases hlinear : r.type = 0x04#8
  · exact ⟨_, exec_imgRec_linear hinactive hlinear, rfl, h.setBase le_rfl (parseRecords_linear hlinear _ rs)⟩
  by_cases hsegment : r.type = 0x02#8
  · exact ⟨_, exec_imgRec_segment hinactive hsegment, rfl, h.setBase (by decide) (parseRecords_segment hsegment _ rs)⟩
  by_cases hdata : r.type = 0x00#8
  · have hblocks := h.blocks
    rw [parseRecords_data hdata] at hblocks
    have haddr : (BitVec.ofNat 32 (s.imgBase.toNat + r.offset.toNat)).toNat = recordAddr (s.deliver r) :=
      toNat_wordOfNat (Nat.lt_succ_of_le (Nat.add_le_add h.base (Nat.le_of_lt_succ r.offset.isLt)))
    have hroom : s.blk.length ≠ Config.maxBlocks := by
      have hlen := congrArg List.length hblocks
      rw [List.length_append, List.length_cons] at hlen
      omega
    have hrange := hend ⟨BitVec.ofNat 32 (s.imgBase.toNat + r.offset.toNat), r.data⟩ (hblocks ▸ by simp)
    exact ⟨_, (exec_imgRec_data hinactive hdata).trans (replayData_of_room haddr hrange hroom), rfl,
      h.inactive, h.base, (List.append_cons _ _ _).symm.trans hblocks⟩
  · refine ⟨_, exec_imgRec_ignored hinactive hdata hsegment hlinear, rfl, h.inactive, h.base, ?_⟩
    rw [← h.blocks, parseRecords_ignored hdata hsegment hlinear]
    rfl

theorem Replaying.replayAll_blk {bs : List Block} {s : State} {rs : List Record} (h : Replaying bs s rs)
    (hfit : bs.length ≤ Config.maxBlocks) (hend : ∀ b ∈ bs, b.addr.toNat + b.data.length ≤ 0xFFFFFFFF) :
    ∃ u, replayAll rs s = some u ∧ u.blk = bs := by
  induction rs generalizing s with
  | nil => exact ⟨s, rfl, (List.append_nil _).symm.trans h.blocks⟩
  | cons r rs ih =>
    obtain ⟨t, hex, hok, ht⟩ := h.step hfit hend
    rw [replayAll_cons_of_next hex hok]
    exact ih ht

/-- Settles O28: `IMG.CLR` starts a parse from an empty store and base 0, and each `IMG.REC` goes on with it. -/
theorem replayLeavesTheParsedBlocks : Obligations.ReplayLeavesTheParsedBlocks := by
  intro s t rs hinactive hclr hfit hend
  rw [exec_imgClr_of_inactive hinactive] at hclr
  cases hclr
  exact Replaying.replayAll_blk ⟨hinactive, Nat.zero_le _, rfl⟩ hfit hend

/-! ### The window and its image (R145 to R148) -/

/-- Settles O29: the window of blocks within the bounds of R40 fits the two registers. -/
theorem imgWinSetsTheTightWindow : Obligations.ImgWinSetsTheTightWindow := by
  refine ⟨rfl, fun s hempty => ?_, fun s hne hwf => ?_⟩
  · rcases execImgWin_cases s with ⟨-, hex⟩ | ⟨hne, -⟩
    · exact hex
    · exact absurd hempty hne
  · rcases execImgWin_cases s with ⟨hempty, -⟩ | ⟨-, hex⟩
    · exact absurd hempty hne
    · obtain ⟨hbounds, ⟨b, hb, hlo⟩, c, hc, hhi⟩ := deriveWindow_spec hne
      obtain ⟨hloFits, hhiFits⟩ := deriveWindow_lt fun b hb => ((Block.wf_iff b).1 (hwf b hb)).2
      have hloExact : (BitVec.ofNat 32 (deriveWindow s.blk).1).toNat = _ := toNat_wordOfNat hloFits
      have hhiExact : (BitVec.ofNat 32 (deriveWindow s.blk).2).toNat = _ := toNat_wordOfNat hhiFits
      refine ⟨_, _, hex, ?_, ⟨b, hb, BitVec.eq_of_toNat_eq (hlo.trans hloExact.symm)⟩,
        c, hc, hhi.trans hhiExact.symm⟩
      rw [hloExact, hhiExact]
      exact hbounds

/-- The image address holds what the last block that covers it gives (R67, R148). -/
theorem imageByte_of_last {before after : List Block} {b : Block} {x : Nat} (hle : b.addr.toNat ≤ x)
    (hlt : x < b.addr.toNat + b.data.length)
    (hlast : ∀ c ∈ after, ¬ (c.addr.toNat ≤ x ∧ x < c.addr.toNat + c.data.length)) :
    imageByte (before ++ b :: after) x = b.data[x - b.addr.toNat]? := by
  have hbyte : b.byte x = b.data[x - b.addr.toNat]? := if_pos hle
  rw [imageByte_append, imageByte, imageByte_eq_none hlast, Option.none_or, hbyte,
    List.getElem?_eq_getElem (by omega), Option.some_or]

/-- Settles O31: the window image is what the image addresses hold, with the gap filling where they hold nothing. -/
theorem windowImageHoldsTheLastBlock : Obligations.WindowImageHoldsTheLastBlock := by
  intro bs lo hi x hlo hhi
  refine ⟨windowImage_length bs lo hi, fun hgap => ?_, fun before after b hsplit hle hlt hlast => ?_⟩
  · rw [windowImage_getElem? bs hlo hhi, imageByte_eq_none hgap]
    rfl
  · rw [windowImage_getElem? bs hlo hhi, hsplit, imageByte_of_last hle hlt hlast, List.getElem?_eq_getElem (by omega)]
    rfl

/-! ### The digest (R149) -/

/-- Settles O30: the two cases of the check, and the length of every digest. -/
theorem imgHashDigestsTheWindowImage : Obligations.ImgHashDigestsTheWindowImage := by
  refine ⟨rfl, fun s hge => ?_, fun s hlt => ⟨?_, Sha256.digest_length _⟩⟩
  · rcases execImgHash_cases s with ⟨-, hex⟩ | ⟨hlt, -⟩
    · exact hex
    · exact absurd hlt hge.not_gt
  · rcases execImgHash_cases s with ⟨hge, -⟩ | ⟨-, hex⟩
    · exact absurd hlt hge.not_gt
    · exact hex

/-! ### What the commands leave unchanged (R28, R67, R141 to R149) -/

/-- An outcome has one next state. -/
theorem next_unique {o : Outcome} {s t : State} (hs : o = .next s) (ht : o = .next t) : t = s :=
  Host.Outcome.next.inj (ht.symm.trans hs)

theorem eq_or_of_unlessActive {s t : State} {go : State → Outcome} (h : unlessActive s go = .next t) :
    t = s.withErr .seqState ∨ go s = .next t := by
  rcases unlessActive_cases s go with ⟨-, hrefused⟩ | ⟨-, hgo⟩
  · exact .inl (next_unique hrefused h)
  · exact .inr (hgo.symm.trans h)

theorem exec_imgClr_writes {s t : State} (h : exec .imgClr s = .next t) :
    ∃ b a d e, t = { s with blk := b, imgBase := a, digValid := d, err := e } := by
  rcases execImgClr_cases s with ⟨-, hex⟩ | ⟨-, hex⟩
  · exact ⟨s.blk, s.imgBase, s.digValid, _, next_unique hex h⟩
  · exact ⟨_, _, _, _, next_unique hex h⟩

/-- A data record is refused, or its block is stored at the end of the store. -/
theorem replayData_writes {n : Nat} {s t : State} (h : replayData n s = .next t) :
    (∃ e, e ≠ .ok ∧ t = s.withErr e) ∨ ∃ a : Word, a.toNat = recordAddr s ∧
      t = { s with blk := s.blk ++ [{ addr := a, data := s.rdbuf }], digValid := false, err := .ok } := by
  rcases replayData_cases n s with ⟨-, hex⟩ | ⟨-, -, hex⟩ | ⟨hrange, -, hex⟩
  · exact .inl ⟨.addrRange, by decide, next_unique hex h⟩
  · exact .inl ⟨.blockFull, by decide, next_unique hex h⟩
  · exact .inr ⟨_, toNat_wordOfNat (Nat.lt_succ_of_le (Nat.le_of_add_right_le hrange)), next_unique hex h⟩

/-- A record is refused, or a data record stores its block, or a record of another kind sets the base at most. -/
theorem exec_record_writes {i : Instr} {s t : State} (hi : i ∈ [Instr.imgRec, .recData]) (h : exec i s = .next t) :
    (∃ e, e ≠ .ok ∧ t = s.withErr e) ∨
    ((i = .recData ∨ s.recType = 0x00#8) ∧ ∃ a : Word, a.toNat = recordAddr s ∧
      t = { s with blk := s.blk ++ [{ addr := a, data := s.rdbuf }], digValid := false, err := .ok }) ∨
    (i = .imgRec ∧ s.recType ≠ 0x00#8 ∧ ∃ base, t = { s with imgBase := base, err := .ok }) := by
  have hrefused (h : t = s.withErr .seqState) : ∃ e, e ≠ .ok ∧ t = s.withErr e := ⟨_, by decide, h⟩
  simp only [List.mem_cons, List.not_mem_nil, or_false] at hi
  rcases hi with rfl | rfl
  · rcases eq_or_of_unlessActive h with h | h
    · exact .inl (hrefused h)
    rcases replay_cases s.recType s with ⟨h0, hr⟩ | ⟨h2, hr⟩ | ⟨h4, hr⟩ | ⟨h0, -, -, hr⟩
    · exact (replayData_writes (hr.symm.trans h)).imp_right fun hstored => .inl ⟨.inr h0, hstored⟩
    · exact .inr (.inr ⟨rfl, by rw [h2]; decide, _, next_unique (hr.trans (replaySegment_eq s)) h⟩)
    · exact .inr (.inr ⟨rfl, by rw [h4]; decide, _, next_unique (hr.trans (replayLinear_eq s)) h⟩)
    · exact .inr (.inr ⟨rfl, h0, s.imgBase, next_unique (hr.trans (replayIgnored_eq s)) h⟩)
  · rcases eq_or_of_unlessActive h with h | h
    · exact .inl (hrefused h)
    · exact (replayData_writes h).imp_right fun hstored => .inl ⟨.inl rfl, hstored⟩

theorem exec_extended_row_writes {i : Instr} {s t : State} (hi : i ∈ [Instr.recExtSegment, .recExtLinear])
    (h : exec i s = .next t) : ∃ base e, t = { s with imgBase := base, err := e } := by
  have hrefused (h : t = s.withErr .seqState) : ∃ base e, t = { s with imgBase := base, err := e } :=
    ⟨s.imgBase, _, h⟩
  simp only [List.mem_cons, List.not_mem_nil, or_false] at hi
  rcases hi with rfl | rfl
  · exact (eq_or_of_unlessActive h).elim hrefused fun h => ⟨_, _, next_unique (replaySegment_eq s) h⟩
  · exact (eq_or_of_unlessActive h).elim hrefused fun h => ⟨_, _, next_unique (replayLinear_eq s) h⟩

theorem exec_ignored_row_writes {i : Instr} {s t : State} (hi : i ∈ [Instr.recEof, .recStartSegment, .recStartLinear])
    (h : exec i s = .next t) : ∃ e, t = s.withErr e := by
  have hrow : unlessActive s replayIgnored = .next t := by
    simp only [List.mem_cons, List.not_mem_nil, or_false] at hi
    rcases hi with rfl | rfl | rfl <;> exact h
  exact (eq_or_of_unlessActive hrow).elim (fun h => ⟨_, h⟩) fun h => ⟨_, next_unique (replayIgnored_eq s) h⟩

theorem exec_imgWin_writes {s t : State} (h : exec .imgWin s = .next t) :
    ∃ lo hi e, t = { s with winMin := lo, winMax := hi, err := e } := by
  rcases execImgWin_cases s with ⟨-, hex⟩ | ⟨-, hex⟩
  · exact ⟨s.winMin, s.winMax, _, next_unique hex h⟩
  · exact ⟨_, _, _, next_unique hex h⟩

theorem exec_imgHash_writes {s t : State} (h : exec .imgHash s = .next t) :
    ∃ g d e, t = { s with digbuf := g, digValid := d, err := e } := by
  rcases execImgHash_cases s with ⟨-, hex⟩ | ⟨-, hex⟩
  · exact ⟨s.digbuf, s.digValid, _, next_unique hex h⟩
  · exact ⟨_, _, _, next_unique hex h⟩

/-- A block changes no image address it does not cover. -/
theorem imageByte_append_singleton {bs : List Block} {b : Block} {x : Nat}
    (h : x < b.addr.toNat ∨ b.addr.toNat + b.data.length ≤ x) : imageByte (bs ++ [b]) x = imageByte bs x := by
  have hnone : imageByte [b] x = none := imageByte_eq_none fun c hc => by
    obtain rfl := List.mem_singleton.1 hc
    omega
  rw [imageByte_append, hnone, Option.none_or]

/-- No buffer holds the block store, the base, the window or the status. -/
theorem image_fields_keep_buffers {s : State} {bs : List Block} {base lo hi : Word} {valid : Bool} {e : ErrCode} :
    sameBytesExcept [] s
      { s with blk := bs, imgBase := base, winMin := lo, winMax := hi, digValid := valid, err := e } :=
  sameBytesExcept_of_buf fun b _ => by cases b <;> rfl

/-- Settles O32: only `IMG.CLR` and a data record write the block store, and only `IMG.HASH` a buffer, DIGBUF. -/
theorem imageCommandsFrame : Obligations.ImageCommandsFrame := by
  refine fun s t => ⟨fun h => ?_, fun i hi h => ?_, fun i hi h => ?_, fun i hi h => ?_, fun h => ?_, fun h => ?_⟩
  · obtain ⟨b, a, d, e, rfl⟩ := exec_imgClr_writes h
    exact ⟨rfl, image_fields_keep_buffers⟩
  · rcases exec_record_writes hi h with ⟨e, -, rfl⟩ | ⟨hdata, a, ha, rfl⟩ | ⟨rfl, hother, base, rfl⟩
    · exact ⟨rfl, image_fields_keep_buffers, fun _ _ => rfl, fun _ => ⟨rfl, sameImage_of_blk rfl⟩, fun _ => rfl⟩
    · refine ⟨rfl, image_fields_keep_buffers, fun x hx => imageByte_append_singleton (ha ▸ hx), fun hnot => ?_,
        fun _ => rfl⟩
      rcases hnot with herr | ⟨rfl, hother⟩
      · exact absurd rfl herr
      · exact absurd hdata (not_or.2 ⟨by decide, hother⟩)
    · refine ⟨rfl, image_fields_keep_buffers, fun _ _ => rfl, fun _ => ⟨rfl, sameImage_of_blk rfl⟩, fun hdata => ?_⟩
      exact absurd hdata (not_or.2 ⟨by decide, hother⟩)
  · obtain ⟨base, e, rfl⟩ := exec_extended_row_writes hi h
    exact ⟨rfl, image_fields_keep_buffers, sameImage_of_blk rfl⟩
  · obtain ⟨e, rfl⟩ := exec_ignored_row_writes hi h
    exact ⟨rfl, image_fields_keep_buffers, sameImage_of_blk rfl⟩
  · obtain ⟨lo, hi, e, rfl⟩ := exec_imgWin_writes h
    exact ⟨rfl, image_fields_keep_buffers, sameImage_of_blk rfl⟩
  · obtain ⟨g, d, e, rfl⟩ := exec_imgHash_writes h
    refine ⟨rfl, sameBytesExcept_of_buf fun b hb => ?_, sameImage_of_blk rfl⟩
    cases b with
    | digbuf => exact absurd (List.mem_singleton_self _) hb
    | _ => rfl

end Sys2Proof.Machine
end

/-! ## Proofs of the merge family: chunk, merge, flush and plan, and the flash-frame sequencer (R160 to R174) -/

section
namespace Sys2Proof.Machine

/-! ### Chunk, piece by piece (R160) -/

/-- Piece `j` is what `n` bytes from `n * j` on give, while there is a byte there. -/
theorem chunk_getElem? {n : Nat} (hn : 1 ≤ n) (d : List Byte) (j : Nat) :
    (chunk d n)[j]? = if n * j < d.length then some ((d.drop (n * j)).take n) else none := by
  induction d using chunk_induction hn generalizing j with
  | nil => simp
  | cons d hd ih =>
    rw [chunk_of_ne_nil hn hd]
    cases j with
    | zero => simp [List.length_pos_iff.2 hd]
    | succ j =>
      have hlt : n * j < (d.drop n).length ↔ n * (j + 1) < d.length := by
        rw [List.length_drop, Nat.mul_succ]
        omega
      rw [List.getElem?_cons_succ, ih, List.drop_drop, Nat.mul_succ, Nat.add_comm n]
      simp only [hlt, Nat.mul_succ]

/-- There is a piece `j` exactly when there is a byte at `n * j`. -/
theorem lt_chunk_length_iff {n : Nat} (hn : 1 ≤ n) (d : List Byte) (j : Nat) :
    j < (chunk d n).length ↔ n * j < d.length := by
  rw [← not_le, ← List.getElem?_eq_none_iff, chunk_getElem? hn]
  split <;> simp [*]

theorem chunk_length {n : Nat} (hn : 1 ≤ n) (d : List Byte) : (chunk d n).length = (d.length + n - 1) / n := by
  rw [← Nat.ceilDiv_eq_add_pred_div]
  refine eq_of_forall_ge_iff fun j => ?_
  rw [ceilDiv_le_iff_le_mul hn, ← not_lt, lt_chunk_length_iff hn, not_lt]

theorem chunk_getD {n : Nat} (hn : 1 ≤ n) {d : List Byte} {j : Nat} (hj : n * j < d.length) :
    (chunk d n).getD j [] = (d.drop (n * j)).take n := by
  rw [List.getD_eq_getElem?_getD, chunk_getElem? hn, if_pos hj, Option.getD_some]

/-- The first `j` pieces are the first `n * j` bytes. -/
theorem chunk_take_flatten {n : Nat} (hn : 1 ≤ n) (d : List Byte) (j : Nat) :
    ((chunk d n).take j).flatten = d.take (n * j) := by
  induction d using chunk_induction hn generalizing j with
  | nil => simp
  | cons d hd ih =>
    cases j with
    | zero => simp
    | succ j =>
      rw [chunk_of_ne_nil hn hd, List.take_succ_cons, List.flatten_cons, ih, Nat.mul_succ, Nat.add_comm, List.take_add]

/-- Data of at most `n` bytes is one piece, unless it is empty. -/
theorem chunk_of_length_le {n : Nat} {d : List Byte} (hd : d ≠ []) (hlen : d.length ≤ n) : chunk d n = [d] := by
  have hn : 1 ≤ n := (List.length_pos_iff.2 hd).trans_le hlen
  rw [chunk_of_ne_nil hn hd, List.take_of_length_le hlen, List.drop_of_length_le hlen, chunk_nil]

/-- Settles O33: each piece and the number of pieces in closed form, from which the last piece has what is left. -/
theorem chunkCutsIntoFullPieces : Obligations.ChunkCutsIntoFullPieces := by
  refine fun d n hn => ⟨chunk_flatten hn d, chunk_length hn d, fun j hj => ?_, fun k hk => ?_⟩
  · have hnext := (lt_chunk_length_iff hn d (j + 1)).1 hj
    rw [Nat.mul_succ] at hnext
    rw [chunk_getD hn (by omega), List.length_take, List.length_drop]
    omega
  · have hlast : n * k < d.length := (lt_chunk_length_iff hn d k).1 (by omega)
    have hend : ¬ n * (k + 1) < d.length := mt (lt_chunk_length_iff hn d (k + 1)).2 (by omega)
    rw [Nat.mul_succ] at hend
    have hlen : ((d.drop (n * k)).take n).length = d.length - n * k := by
      rw [List.length_take, List.length_drop]
      omega
    rw [chunk_getD hn hlast]
    exact ⟨hlen, List.length_pos_iff.1 (by omega)⟩

/-! ### Merge as the loop of the rule (R161) -/

theorem joins_iff (limit : Nat) (p b : Block) : joins limit p b = true ↔
    b.addr.toNat = p.addr.toNat + p.data.length ∧ p.data.length + b.data.length ≤ limit := by
  rw [joins, Bool.and_eq_true, decide_eq_true_iff, decide_eq_true_iff, Block.stop]

theorem mergeStep_of_joins {limit : Nat} {p b : Block} (out : List Block) (h : joins limit p b = true) :
    mergeStep limit (out, some p) b = (out, some { addr := p.addr, data := p.data ++ b.data }) :=
  if_pos ((joins_iff limit p b).1 h)

theorem mergeStep_of_not_joins {limit : Nat} {p b : Block} (out : List Block) (h : ¬ joins limit p b = true) :
    mergeStep limit (out, some p) b = (out ++ [p], some b) :=
  if_neg (mt (joins_iff limit p b).2 h)

/-- What the loop of R161 has flushed in the end, the last pending block included. -/
def flushedAll (st : List Block × Option Block) : List Block := st.1 ++ st.2.toList

/-- The recursion of `merge` is the loop from any point of it on, after the blocks flushed so far. -/
theorem flushedAll_foldl_mergeStep (limit : Nat) (bs out : List Block) (pend : Option Block) :
    flushedAll (bs.foldl (mergeStep limit) (out, pend)) = out ++ mergeLoop limit pend bs := by
  induction bs generalizing out pend with
  | nil => cases pend <;> rfl
  | cons b bs ih =>
    rw [List.foldl_cons]
    cases pend with
    | none => exact ih out (some b)
    | some p =>
      rw [mergeLoop]
      by_cases hj : joins limit p b = true
      · rw [if_pos hj, mergeStep_of_joins out hj, ih]
      · rw [if_neg hj, mergeStep_of_not_joins out hj, ih, List.append_assoc]
        rfl

/-- Settles O34: the loop from its start, with nothing flushed and no block pending. -/
theorem mergeIsTheLoopOfTheRule : Obligations.MergeIsTheLoopOfTheRule :=
  fun bs limit => (flushedAll_foldl_mergeStep limit bs [] none).symm

/-! ### Flush, unit by unit (R162) -/

/-- The cursor has advanced by the length of the chunks before. -/
theorem addressed_getElem? (cur : Word) (cs : List (List Byte)) (j : Nat) :
    (addressed cur cs)[j]? = cs[j]?.map fun c => (cur + BitVec.ofNat 32 (cs.take j).flatten.length, c) := by
  induction cs generalizing cur j with
  | nil => rfl
  | cons c cs ih =>
    cases j with
    | zero => simp [addressed]
    | succ j =>
      rw [addressed, List.getElem?_cons_succ, List.getElem?_cons_succ, ih, List.take_succ_cons, List.flatten_cons,
        List.length_append, BitVec.ofNat_add, BitVec.add_assoc]

/-- Unit `j` carries what `cs` bytes from `j * cs` on give, at their image address. -/
theorem flush_getElem? (m : Block) {cs : Nat} (hcs : 1 ≤ cs) (j : Nat) :
    (flush m cs)[j]? = if cs * j < m.data.length then
      some (m.addr + BitVec.ofNat 32 (cs * j), (m.data.drop (cs * j)).take cs) else none := by
  rw [flush, addressed_getElem?, chunk_getElem? hcs, chunk_take_flatten hcs, List.length_take]
  split
  · next hj => rw [Option.map_some, Nat.min_eq_left hj.le]
  · rfl

/-- Settles O35: the unit's own bytes lie before the block's end, which is at most 0xFFFFFFFF. -/
theorem flushAddressesEachChunk : Obligations.FlushAddressesEachChunk := by
  refine fun m cs hcs hend => ⟨addressed_map_snd _ _, fun j u hu => ?_, fun hempty => ?_⟩
  · rw [flush_getElem? m hcs] at hu
    split at hu
    · next hj =>
      cases hu
      have hword : (BitVec.ofNat 32 (cs * j)).toNat = cs * j := toNat_wordOfNat (by omega)
      have hsum : (m.addr + BitVec.ofNat 32 (cs * j)).toNat = m.addr.toNat + cs * j := by
        rw [BitVec.toNat_add_of_lt (by omega), hword]
      rw [hsum, Nat.mul_comm j]
      exact ⟨rfl, by omega⟩
    · cases hu
  · rw [flush, hempty, chunk_nil]
    rfl

/-! ### What a plan carries (R164, R174) -/

theorem plan_eq_units (bs : List Block) (maxp cs : Nat) (marker : Word) : plan bs maxp cs marker =
    (units bs (maxp - 4) cs).map dataEntry ++
      [metaEntry marker (BitVec.ofNat 32 (deriveWindow bs).1) (BitVec.ofNat 32 (deriveWindow bs).2)] := rfl

/-- Blocks that do not overlap give no image address twice. -/
theorem addresses_nodup {bs : List Block}
    (h : bs.Pairwise fun b c => b.addr.toNat + b.data.length ≤ c.addr.toNat ∨ c.addr.toNat + c.data.length ≤ b.addr.toNat) :
    ((bs.flatMap fun b => addressedBytes b.addr.toNat b.data).map Prod.fst).Nodup := by
  rw [List.map_flatMap]
  simp only [addressedBytes_map_fst]
  refine List.nodup_flatMap.2 ⟨fun b _ => List.nodup_range', h.imp fun hbc x hb hc => ?_⟩
  rw [List.mem_range'_1] at hb hc
  omega

/-- Settles O36: the units carry the bytes of the blocks as they are, so their addresses are those of the blocks. -/
theorem planCoversTheBlocksExactly : Obligations.PlanCoversTheBlocksExactly := by
  intro bs maxp cs marker hcs _ hend
  have hbytes := units_addressedBytes (limit := maxp - 4) hcs hend
  refine ⟨_, _, _, plan_eq_units bs maxp cs marker, hbytes, fun hdisjoint => ?_⟩
  rw [hbytes]
  exact addresses_nodup hdisjoint

/-- The window registers of blocks within R40's bound hold the tight window (R145, R163). -/
theorem windowWords_tight {bs : List Block} (hne : bs ≠ [])
    (hend : ∀ b ∈ bs, b.addr.toNat + b.data.length ≤ 0xFFFFFFFF) :
    (∀ b ∈ bs, (BitVec.ofNat 32 (deriveWindow bs).1).toNat ≤ b.addr.toNat ∧
      b.addr.toNat + b.data.length ≤ (BitVec.ofNat 32 (deriveWindow bs).2).toNat) ∧
    (∃ b ∈ bs, b.addr = BitVec.ofNat 32 (deriveWindow bs).1) ∧
      ∃ b ∈ bs, b.addr.toNat + b.data.length = (BitVec.ofNat 32 (deriveWindow bs).2).toNat := by
  obtain ⟨hlo, hhi⟩ := deriveWindow_lt hend
  obtain ⟨hbounds, ⟨b, hb, hmin⟩, hmax⟩ := deriveWindow_spec hne
  rw [toNat_wordOfNat hlo, toNat_wordOfNat hhi]
  exact ⟨hbounds, ⟨b, hb, BitVec.eq_of_toNat_eq (hmin.trans (toNat_wordOfNat hlo).symm)⟩, hmax⟩

theorem le32_eq_ofNat (v : Word) : le32 v =
    [BitVec.ofNat 8 v.toNat, BitVec.ofNat 8 (v.toNat / 256), BitVec.ofNat 8 (v.toNat / 65536),
      BitVec.ofNat 8 (v.toNat / 16777216)] := by
  rw [le32_eq_reverse_be32, be32_eq_ofNat]
  rfl

theorem dataEntry_frame (u : Word × List Byte) : (dataEntry u).frame = encodeFrame 2#8 (be32 u.1 ++ u.2) := rfl

theorem metaEntry_frame (marker lo hi : Word) :
    (metaEntry marker lo hi).frame = encodeFrame 2#8 (be32 marker ++ le32 lo ++ le32 hi) := rfl

/-- Settles O37: the entries are those of the units, of 1 to `cs` bytes each, and the metadata entry of the window. -/
theorem plannedFramesFitMaxPayload : Obligations.PlannedFramesFitMaxPayload := by
  intro bs maxp cs marker hne _ hcs hle _ high low
  refine ⟨_, _, _, _, plan_eq_units bs maxp cs marker, fun e he => ?_, rfl, rfl, rfl, ?_, ?_, windowWords_tight hne⟩
  · obtain ⟨u, hu, rfl⟩ := List.mem_map.1 he
    obtain ⟨hpos, hlen⟩ := units_mem_length hcs u hu
    refine ⟨rfl, hpos, hlen, ?_, ?_, ?_⟩
    · rw [dataEntry_frame, be32_eq_ofNat]
      rfl
    · rw [dataEntry_frame, encodeFrame_length, List.length_append, be32_length]
      rfl
    · show 4 + u.2.length ≤ maxp
      omega
  · rw [metaEntry_frame, be32_eq_ofNat, le32_eq_ofNat, le32_eq_ofNat]
  · rw [metaEntry_frame, encodeFrame_length]
    rfl

/-! ### The source's examples (R171) -/

/-- The first unit of a block, and the units of what is left of it. -/
theorem flush_of_ne_nil {m : Block} {cs : Nat} (hcs : 1 ≤ cs) (hne : m.data ≠ []) :
    flush m cs = (m.addr, m.data.take cs) ::
      flush { addr := m.addr + BitVec.ofNat 32 (m.data.take cs).length, data := m.data.drop cs } cs := by
  rw [flush, chunk_of_ne_nil hcs hne]
  rfl

theorem flush_of_length_le {m : Block} {cs : Nat} (hne : m.data ≠ []) (hlen : m.data.length ≤ cs) :
    flush m cs = [(m.addr, m.data)] := by
  rw [flush, chunk_of_length_le hne hlen]
  rfl

theorem replicate_ne_nil (a : Byte) {n : Nat} (hn : n ≠ 0) : List.replicate n a ≠ [] :=
  mt (List.replicate_eq_nil_iff a).1 hn

theorem flush_replicate_300 (a : Byte) : flush { addr := 0#32, data := List.replicate 300 a } 252 =
    [(0#32, List.replicate 252 a), (252#32, List.replicate 48 a)] := by
  rw [flush_of_ne_nil (by decide) (replicate_ne_nil a (by decide)), List.take_replicate, List.drop_replicate,
    flush_of_length_le (replicate_ne_nil a (by decide)) (by rw [List.length_replicate]; decide), List.length_replicate]
  rfl

theorem units_pair_of_joins {limit cs : Nat} {b c : Block} (h : joins limit b c = true) :
    units [b, c] limit cs = flush { addr := b.addr, data := b.data ++ c.data } cs := by
  have hmerge : merge [b, c] limit = [{ addr := b.addr, data := b.data ++ c.data }] := if_pos h
  rw [units, hmerge, List.flatMap_singleton]

theorem units_pair_of_not_joins {limit cs : Nat} {b c : Block} (h : ¬ joins limit b c = true) :
    units [b, c] limit cs = flush b cs ++ flush c cs := by
  have hmerge : merge [b, c] limit = [b, c] := if_neg h
  rw [units, hmerge, List.flatMap_cons, List.flatMap_singleton]

/-- The window of two blocks, the first of which starts lower and ends where the second starts. -/
theorem deriveWindow_pair {b c : Block} (h : b.addr.toNat + b.data.length = c.addr.toNat) :
    deriveWindow [b, c] = (b.addr.toNat, c.addr.toNat + c.data.length) := by
  simp only [deriveWindow, List.foldl_cons, List.foldl_nil, Block.stop, Prod.mk.injEq]
  omega

/-- Settles O46: 350 bytes exceed the limit of 252 and 150 do not, and only a block of more than 252 bytes is cut. -/
theorem mergeExamplesOfTheSource : Obligations.MergeExamplesOfTheSource := by
  refine fun a b marker => ⟨?_, ?_⟩
  · rw [plan_eq_units, units_pair_of_not_joins (by simp only [joins_iff, List.length_replicate]; decide),
      flush_replicate_300, flush_of_length_le (replicate_ne_nil b (by decide)) (by rw [List.length_replicate]; decide),
      deriveWindow_pair (by rw [List.length_replicate]; rfl), List.length_replicate]
    rfl
  · rw [plan_eq_units, units_pair_of_joins (by simp only [joins_iff, List.length_replicate]; decide),
      flush_of_length_le (List.append_ne_nil_of_left_ne_nil (replicate_ne_nil a (by decide)) _)
        (by simp only [List.length_append, List.length_replicate]; decide),
      deriveWindow_pair (by rw [List.length_replicate]; rfl), List.length_replicate]
    rfl

/-! ### The sequencer's commands, case by case (R166 to R169) -/

theorem exec_mrgStart_of_active {s : State} (h : s.seq = .ready ∨ s.seq = .await) :
    exec .mrgStart s = .next { s with err := .seqState } := by
  rw [exec, execMrgStart, unlessActive_of_active h]
  rfl

theorem exec_mrgStart_of_illegal {s : State} (h : ¬ (s.seq = .ready ∨ s.seq = .await))
    (hc : ¬ legalConfig s.maxPayload.toNat s.chunkSize.toNat = true) :
    exec .mrgStart s = .next { s with err := .badConfig } := by
  rw [exec, execMrgStart, unlessActive_of_inactive h, if_neg hc]
  rfl

theorem exec_mrgStart_of_empty {s : State} (h : ¬ (s.seq = .ready ∨ s.seq = .await))
    (hc : legalConfig s.maxPayload.toNat s.chunkSize.toNat = true) (hempty : s.blk = []) :
    exec .mrgStart s = .next { s with err := .noData } := by
  rw [exec, execMrgStart, unlessActive_of_inactive h, if_pos hc, if_pos (List.length_eq_zero_iff.2 hempty)]
  rfl

theorem exec_mrgStart_of_legal {s : State} (h : ¬ (s.seq = .ready ∨ s.seq = .await))
    (hc : legalConfig s.maxPayload.toNat s.chunkSize.toNat = true) (hne : s.blk ≠ []) :
    exec .mrgStart s = .next (s.startSequence.withErr .ok) := by
  rw [exec, execMrgStart, unlessActive_of_inactive h, if_pos hc, if_neg (mt List.length_eq_zero_iff.1 hne)]
  rfl

/-- Settles O38: one case per check; the window and the total of a store within its bounds fit their registers. -/
theorem mrgStartPlansTheSequence : Obligations.MrgStartPlansTheSequence := by
  refine ⟨rfl, fun s => ⟨exec_mrgStart_of_active, fun h => ⟨fun hc => ?_, fun hc hempty => ?_, fun hc hne hwf hstore => ?_⟩⟩⟩
  · exact exec_mrgStart_of_illegal h (mt (legalConfig_iff _ _).1 hc)
  · exact exec_mrgStart_of_empty h ((legalConfig_iff _ _).2 hc) hempty
  · have hbounds : ∀ b ∈ s.blk, b.data.length ≤ Config.rdCap ∧ b.stop ≤ Config.u32Max :=
      fun b hb => (Block.wf_iff b).1 (hwf b hb)
    obtain ⟨hcover, hlo, hhi⟩ := windowWords_tight hne fun b hb => (hbounds b hb).2
    have htotal := toNat_wordOfNat (totalBytes_lt (fun b hb => (hbounds b hb).1) hstore)
    exact ⟨_, _, _, exec_mrgStart_of_legal h ((legalConfig_iff _ _).2 hc) hne, hcover, hlo, hhi, htotal⟩

theorem exec_mrgNext_of_not_ready {s : State} (h : s.seq ≠ .ready) :
    exec .mrgNext s = .next { s with err := .seqState } :=
  if_pos h

/-- In READY the frame due goes out, with its last two bytes in `TX_CRC`, low byte first. -/
theorem exec_mrgNext_of_ready {s : State} {e : SeqEntry} {pre : List Byte} {c0 c1 : Byte} (hs : s.seq = .ready)
    (he : s.seqFrames[s.seqIdx]? = some e) (hframe : e.frame = pre ++ [c0, c1]) :
    exec .mrgNext s = .next { s with
      txbuf := e.frame, txCrc := c1 ++ c0, cursor := if e.tag = .firmware then e.addr else s.cursor, seq := .await,
      err := .ok } := by
  have hlen : e.frame.length = pre.length + 2 := by rw [hframe, List.length_append]; rfl
  have hcrc : rdle16 e.frame (e.frame.length - 2) = c1 ++ c0 := by
    simpa [hframe] using rdle16_pair pre [] c0 c1
  rw [exec, execMrgNext, if_neg (not_not.2 hs), he, ← hcrc]
  exact if_neg (by omega)

theorem exists_last_pair {f : List Byte} (h : 2 ≤ f.length) : ∃ pre c0 c1, f = pre ++ [c0, c1] := by
  obtain ⟨c0, c1, hlast⟩ := List.length_eq_two.1 (show (f.drop (f.length - 2)).length = 2 by
    rw [List.length_drop]; omega)
  exact ⟨f.take (f.length - 2), c0, c1, by rw [← hlast, List.take_append_drop]⟩

/-- Settles O39: the invariant gives the entry due, whose frame ends in its CRC. -/
theorem mrgNextSendsThePlannedFrame : Obligations.MrgNextSendsThePlannedFrame := by
  refine ⟨rfl, fun s => exec_mrgNext_of_not_ready, fun s h hs => ?_⟩
  obtain ⟨e, he⟩ := h.exists_due_entry (.inl hs)
  have hlen := h.entry_frame_length (by simp [hs]) he
  obtain ⟨pre, c0, c1, hframe⟩ := exists_last_pair (f := e.frame) (by omega)
  have hex := exec_mrgNext_of_ready hs he hframe
  refine ⟨e, pre, c0, c1, he, hframe, fun htag => ?_, fun htag => ?_⟩
  · rw [hex, if_pos htag]
  · rw [hex, if_neg (by simp [htag])]

theorem exec_mrgAck_of_not_await {s : State} (h : s.seq ≠ .await) :
    exec .mrgAck s = .next { s with err := .seqState } :=
  if_pos h

theorem exec_mrgAck_of_error {s : State} {x : ErrCode} (hs : s.seq = .await) (hdec : decodeFrame s.rxbuf = .error x) :
    exec .mrgAck s = .next { s with decValid := false, seq := .failed, err := x } := by
  rw [exec, execMrgAck, if_neg (not_not.2 hs), hdec]
  rfl

theorem exec_mrgAck_of_ok {s : State} {p : Packet} (hs : s.seq = .await) (hdec : decodeFrame s.rxbuf = .ok p) :
    exec .mrgAck s = acceptAck (s.storePacket p) := by
  rw [exec, execMrgAck, if_neg (not_not.2 hs), hdec]

theorem acceptAck_of_not_ok {s : State} {x : ErrCode}
    (hv : validate s.packet (some Config.kindFlashData) (some ackPayload) = x) (hx : x ≠ .ok) :
    acceptAck s = .next { s with seq := .failed, err := x } := by
  rw [acceptAck, hv]
  cases x with
  | ok => exact absurd rfl hx
  | _ => rfl

theorem acceptAck_of_ok {s : State} {e : SeqEntry}
    (hv : validate s.packet (some Config.kindFlashData) (some ackPayload) = .ok)
    (he : s.seqFrames[s.seqIdx]? = some e) : acceptAck s = .next ((s.acknowledge e).withErr .ok) := by
  rw [acceptAck, hv, he]
  rfl

/-- The count of a DATA entry's bytes does not wrap, since the state after its ACK has the invariant (R170). -/
theorem State.Inv.progSent_add {s : State} (h : s.Inv) (hs : s.seq = .await) {e : SeqEntry}
    (he : s.seqFrames[s.seqIdx]? = some e) (htag : e.tag = .firmware) :
    (s.progSent + BitVec.ofNat 32 e.data.length).toNat = s.progSent.toNat + e.data.length := by
  have hsent := (h.acknowledge hs he).sent
  rwa [State.acknowledge_progSent, State.acknowledge_seqFrames, State.acknowledge_seqIdx, sentBytes_take_succ he,
    if_pos htag, if_pos htag, ← h.sent] at hsent

/-- Settles O40: one case per check, and after a good ACK one per tag of the entry, which the invariant gives. -/
theorem mrgAckChecksTheResponse : Obligations.MrgAckChecksTheResponse := by
  refine ⟨rfl, fun s => exec_mrgAck_of_not_await, fun s x => exec_mrgAck_of_error, fun s p hs hdec hv => ?_,
    fun s p h hs hdec hv => ?_⟩
  · exact (exec_mrgAck_of_ok hs hdec).trans (acceptAck_of_not_ok rfl hv)
  · obtain ⟨e, he⟩ := h.exists_due_entry (.inr hs)
    have hex : exec .mrgAck s = .next (((s.storePacket p).acknowledge e).withErr .ok) :=
      (exec_mrgAck_of_ok hs hdec).trans (acceptAck_of_ok hv he)
    refine ⟨e, he, fun nextState hnext => ⟨fun htag => ?_, fun htag => ?_⟩⟩
    · refine ⟨_, _, h.progSent_add hs he htag, rfl, ?_⟩
      rw [hex, hnext, State.acknowledge, if_pos htag, if_pos htag]
      rfl
    · have hmeta : e.tag ≠ .firmware := by simp [htag]
      rw [hex, hnext, State.acknowledge, if_neg hmeta, if_neg hmeta]
      rfl

theorem decode_mrgAbort (c : Byte) : decode (BitVec.ofNat 32 (c.toNat * 256 + 0x33)) = .instr (.mrgAbort c) := by
  have hword : commandWord 0x33#8 c = BitVec.ofNat 32 (c.toNat * 256 + 0x33) := commandWord_eq_ofNat 0x33#8 c
  exact hword ▸ decodeEncoded_encode (.mrgAbort c)

theorem exec_mrgAbort_of_active {s : State} (h : s.seq = .ready ∨ s.seq = .await) (c : Byte) :
    exec (.mrgAbort c) s = .next { s with abortCause := c, seq := .failed, err := .hostAbort } :=
  if_pos ((SeqState.active_iff _).2 h)

theorem exec_mrgAbort_of_inactive {s : State} (h : ¬ (s.seq = .ready ∨ s.seq = .await)) (c : Byte) :
    exec (.mrgAbort c) s = .next { s with err := .seqState } :=
  if_neg (mt (SeqState.active_iff _).1 h)

/-- Settles O41: the word is the encoding, and the only check is that of the sequencer state. -/
theorem mrgAbortFailsTheSequence : Obligations.MrgAbortFailsTheSequence :=
  fun c _ => ⟨decode_mrgAbort c, fun h => exec_mrgAbort_of_active h c, fun h => exec_mrgAbort_of_inactive h c⟩

/-! ### What the commands leave unchanged (R46 to R48, R166 to R169) -/

theorem exec_mrgStart_writes {s t : State} (h : exec .mrgStart s = .next t) :
    (∃ e, e ≠ .ok ∧ t = s.withErr e) ∨ (s.seq.active = false ∧ t = s.startSequence.withErr .ok) := by
  rcases execMrgStart_cases s with ⟨-, hex⟩ | ⟨-, -, hex⟩ | ⟨-, -, -, hex⟩ | ⟨ha, -, -, hex⟩
  · exact .inl ⟨.seqState, by decide, next_unique hex h⟩
  · exact .inl ⟨.badConfig, by decide, next_unique hex h⟩
  · exact .inl ⟨.noData, by decide, next_unique hex h⟩
  · exact .inr ⟨ha, next_unique hex h⟩

theorem exec_mrgNext_writes {s t : State} (h : exec .mrgNext s = .next t) :
    t = s.withErr .seqState ∨ (s.seq = .ready ∧ ∃ f c cursor,
      t = { s with txbuf := f, txCrc := c, cursor := cursor, seq := .await, err := .ok }) := by
  rcases execMrgNext_cases s with ⟨-, hex⟩ | ⟨-, -, hex⟩ | ⟨_, -, -, -, hex⟩ | ⟨_, hs, -, -, hex⟩
  · exact .inl (next_unique hex h)
  · cases hex.symm.trans h
  · cases hex.symm.trans h
  · exact .inr ⟨hs, _, _, _, next_unique hex h⟩

/-- A response is refused with nothing else written, or fails the sequence, or acknowledges the entry due. -/
theorem exec_mrgAck_writes {s t : State} (h : exec .mrgAck s = .next t) :
    t = s.withErr .seqState ∨ (s.seq = .await ∧
      ((∃ x, x ≠ .ok ∧ t = { s with decValid := false, seq := .failed, err := x }) ∨
        (∃ p x, x ≠ .ok ∧ t = { s.storePacket p with seq := .failed, err := x }) ∨
        ∃ p e, t = ((s.storePacket p).acknowledge e).withErr .ok)) := by
  rcases execMrgAck_cases s with ⟨-, hex⟩ | ⟨x, hs, hx, -, hex⟩ |
    ⟨p, hs, -, -, -, ⟨hv, hex⟩ | ⟨-, -, hex⟩ | ⟨e, -, -, hex⟩⟩
  · exact .inl (next_unique hex h)
  · exact .inr ⟨hs, .inl ⟨x, by rcases hx with rfl | rfl <;> decide, next_unique hex h⟩⟩
  · exact .inr ⟨hs, .inr (.inl ⟨p, _, hv, next_unique hex h⟩)⟩
  · cases hex.symm.trans h
  · exact .inr ⟨hs, .inr (.inr ⟨p, e, next_unique hex h⟩)⟩

theorem exec_mrgAbort_writes {c : Byte} {s t : State} (h : exec (.mrgAbort c) s = .next t) :
    t = s.withErr .seqState ∨
      (s.seq.active = true ∧ t = { s with abortCause := c, seq := .failed, err := .hostAbort }) := by
  rcases execMrgAbort_cases c s with ⟨ha, hex⟩ | ⟨-, hex⟩
  · exact .inr ⟨ha, next_unique hex h⟩
  · exact .inl (next_unique hex h)

/-- Settles O44: the fields each command writes hold one buffer at most and not the block store. -/
theorem sequencerCommandsFrame : Obligations.SequencerCommandsFrame := by
  refine fun s t => ⟨fun h => ?_, fun h => ?_, fun h => ?_, fun c h => ?_⟩
  · rcases exec_mrgStart_writes h with ⟨e, -, rfl⟩ | ⟨-, rfl⟩ <;>
      exact ⟨rfl, sameBytesExcept_of_buf fun b _ => by cases b <;> rfl, sameImage_of_blk rfl⟩
  · rcases exec_mrgNext_writes h with rfl | ⟨-, f, c, cursor, rfl⟩
    all_goals
      refine ⟨rfl, sameBytesExcept_of_buf fun b hb => ?_, sameImage_of_blk rfl⟩
      cases b with
      | txbuf => exact absurd (List.mem_singleton_self _) hb
      | _ => rfl
  · rcases exec_mrgAck_writes h with rfl | ⟨-, ⟨x, -, rfl⟩ | ⟨p, x, -, rfl⟩ | ⟨p, e, rfl⟩⟩
    all_goals
      refine ⟨rfl, sameBytesExcept_of_buf fun b hb => ?_, sameImage_of_blk rfl⟩
      cases b with
      | rpbuf => exact absurd (List.mem_singleton_self _) hb
      | _ => rfl
  · rcases exec_mrgAbort_writes h with rfl | ⟨-, rfl⟩ <;>
      exact ⟨rfl, sameBytesExcept_of_buf fun b _ => by cases b <;> rfl, sameImage_of_blk rfl⟩

/-! ### The transitions (R172) -/

/-- The commands of the sequencer, the only ones that move it. -/
def movesSequencer : Instr → Bool
  | .mrgStart | .mrgNext | .mrgAck | .mrgAbort _ => true
  | _ => false

/-- By the frames of their families, the other commands write no sequencer state. -/
theorem exec_keeps_seq {i : Instr} {s t : State} (hi : movesSequencer i = false) (h : exec i s = .next t) :
    t.seq = s.seq := by
  obtain ⟨hframing, hdec, hval⟩ := frameCommandsFrame s t
  obtain ⟨hclr, hrec, hext, hignored, hwin, hhash⟩ := imageCommandsFrame s t
  cases i with
  | crcInit | crcByte | crcBuf => exact (congrArg State.seq (crcCommandsFrame _ s t rfl h).1).trans rfl
  | frmEnc | kindInvalid | kindFlashStart | kindFlashData | kindFlashMac | kindValidateFlash | kindSendSignature =>
    exact (congrArg State.seq (hframing _ (by decide) h).1).trans rfl
  | frmDec => exact (congrArg State.seq (hdec h).1).trans rfl
  | frmVal | frmVack => exact (congrArg State.seq (hval _ (by decide) h).1).trans rfl
  | imgClr => exact (congrArg State.seq (hclr h).1).trans rfl
  | imgRec | recData => exact (congrArg State.seq (hrec _ (by decide) h).1).trans rfl
  | recExtSegment | recExtLinear => exact (congrArg State.seq (hext _ (by decide) h).1).trans rfl
  | recEof | recStartSegment | recStartLinear => exact (congrArg State.seq (hignored _ (by decide) h).1).trans rfl
  | imgWin => exact (congrArg State.seq (hwin h).1).trans rfl
  | imgHash => exact (congrArg State.seq (hhash h).1).trans rfl
  | mrgStart | mrgNext | mrgAck | mrgAbort => cases hi

/-- An active sequence has its store locked (R228). -/
theorem exec_of_locked {s : State} (h : s.seq = .ready ∨ s.seq = .await) {i : Instr}
    (hi : i ∈ [Instr.mrgStart, .imgClr, .imgRec, .recData, .recExtSegment, .recExtLinear, .recEof, .recStartSegment,
      .recStartLinear]) : exec i s = .next { s with err := .seqState } := by
  simp only [List.mem_cons, List.not_mem_nil, or_false] at hi
  rcases hi with rfl | rfl | rfl | rfl | rfl | rfl | rfl | rfl | rfl
  · exact exec_mrgStart_of_active h
  · exact exec_imgClr_of_active h
  all_goals exact unlessActive_of_active h

theorem SeqState.mem_active_iff (q : SeqState) : q ∈ [SeqState.ready, .await] ↔ q = .ready ∨ q = .await := by
  simp

theorem SeqState.mem_inactive_iff (q : SeqState) : q ∈ [SeqState.idle, .done, .failed] ↔ q.active = false := by
  rw [SeqState.active_eq_false_iff]
  simp

/-- Settles O42: each sequencer command by what it can write, every other by its frame; the refusals are the checks. -/
theorem sequencerTransitions : Obligations.SequencerTransitions := by
  refine ⟨fun i s t h hne => ?_, fun s hs i => exec_of_locked ((SeqState.mem_active_iff _).1 hs), fun s =>
    ⟨exec_mrgNext_of_not_ready, exec_mrgAck_of_not_await,
      fun hs => exec_mrgAbort_of_inactive (mt (SeqState.mem_active_iff _).2 hs)⟩⟩
  cases i with
  | mrgStart =>
    rcases exec_mrgStart_writes h with ⟨e, -, rfl⟩ | ⟨ha, rfl⟩
    · exact absurd rfl hne
    · exact .inl ⟨rfl, (SeqState.mem_inactive_iff _).2 ha, rfl, rfl⟩
  | mrgNext =>
    rcases exec_mrgNext_writes h with rfl | ⟨hs, f, c, cursor, rfl⟩
    · exact absurd rfl hne
    · exact .inr (.inl ⟨rfl, hs, rfl, rfl⟩)
  | mrgAbort c =>
    rcases exec_mrgAbort_writes h with rfl | ⟨ha, rfl⟩
    · exact absurd rfl hne
    · exact .inr (.inr (.inl ⟨⟨c, rfl⟩, (SeqState.mem_active_iff _).2 ((SeqState.active_iff _).1 ha), rfl, rfl⟩))
  | mrgAck =>
    rcases exec_mrgAck_writes h with rfl | ⟨hs, ⟨x, hx, rfl⟩ | ⟨p, x, hx, rfl⟩ | ⟨p, e, rfl⟩⟩
    · exact absurd rfl hne
    · exact .inr (.inr (.inr (.inr ⟨rfl, hs, rfl, hx⟩)))
    · exact .inr (.inr (.inr (.inr ⟨rfl, hs, rfl, hx⟩)))
    · refine .inr (.inr (.inr (.inl ⟨rfl, hs, ?_, rfl⟩)))
      rw [State.withErr_seq, State.acknowledge_seq]
      split <;> decide
  | _ => exact absurd (exec_keeps_seq rfl h) hne

/-! ### Progress (R170) -/

/-- Settles O55: `PROG_SENT` counts a first part of the entries, in DONE all of them. -/
theorem progressIsBoundedAndCompleteWhenDone : Obligations.ProgressIsBoundedAndCompleteWhenDone := by
  refine fun s h => ⟨?_, fun hdone => BitVec.eq_of_toNat_eq ?_⟩
  · rw [h.sent, h.total]
    exact sentBytes_take_le _ _
  · rw [h.sent, h.total, h.ended.2 (.inl hdone), List.take_length]

/-! ### A whole Flash step (R164 to R170) -/

theorem flashDataAck_eq : flashDataAck = encodeFrame Config.kindFlashData ackPayload := by decide +kernel

/-- A Flash step between two exchanges, none of which has failed. -/
structure Flashing (s : State) : Prop where
  inv : s.Inv
  seq : s.seq = .ready ∨ s.seq = .done
  err : s.err = .ok

/-- A FlashData ACK in RXBUF acknowledges the entry due (R168). -/
theorem exec_mrgAck_flashDataAck {s : State} {e : SeqEntry} (hs : s.seq = .await) (hrx : s.rxbuf = flashDataAck)
    (he : s.seqFrames[s.seqIdx]? = some e) : exec .mrgAck s = .next
      (((s.storePacket (encodedPacket Config.kindFlashData ackPayload)).acknowledge e).withErr .ok) := by
  have hdec : decodeFrame s.rxbuf = .ok (encodedPacket Config.kindFlashData ackPayload) := by
    rw [hrx, flashDataAck_eq]
    exact decodeFrame_encodeFrame _ (by decide)
  refine (exec_mrgAck_of_ok hs hdec).trans (acceptAck_of_ok ?_ he)
  rw [State.packet_storePacket]
  exact validate_encodedPacket _ _ (.inl rfl) (.inl rfl)

theorem exchange_of_next {response : List Byte} {s t u : State} (hnext : exec .mrgNext s = .next t)
    (hack : exec .mrgAck { t with rxbuf := response } = .next u) : exchange response s = some (t.txbuf, u) := by
  rw [exchange, hnext]
  dsimp only
  rw [hack]

/-- An exchange answered by the FlashData ACK sends the frame due and goes on to the next entry. -/
theorem Flashing.exchange {s : State} (h : Flashing s) (hs : s.seq = .ready) :
    ∃ e u, s.seqFrames[s.seqIdx]? = some e ∧ exchange flashDataAck s = some (e.frame, u) ∧ Flashing u ∧
      u.seqFrames = s.seqFrames ∧ u.seqIdx = s.seqIdx + 1 ∧ u.progTotal = s.progTotal := by
  obtain ⟨e, he⟩ := h.inv.exists_due_entry (.inl hs)
  have hlen := h.inv.entry_frame_length (by simp [hs]) he
  obtain ⟨pre, c0, c1, hframe⟩ := exists_last_pair (f := e.frame) (by omega)
  obtain ⟨t, hnext, hawait, htx, hframes, hidx, htotal⟩ : ∃ t, exec .mrgNext s = .next t ∧ t.seq = .await ∧
      t.txbuf = e.frame ∧ t.seqFrames = s.seqFrames ∧ t.seqIdx = s.seqIdx ∧ t.progTotal = s.progTotal :=
    ⟨_, exec_mrgNext_of_ready hs he hframe, rfl, rfl, rfl, rfl, rfl⟩
  have hloaded : (t.setBuf .rxbuf flashDataAck).Inv := (exec_inv h.inv .mrgNext t hnext).setBuf rfl (by decide)
  have hack := exec_mrgAck_flashDataAck (s := t.setBuf .rxbuf flashDataAck) (e := e) hawait rfl
    (by rw [State.setBuf_seqFrames, State.setBuf_seqIdx, hframes, hidx, he])
  refine ⟨e, _, he, htx ▸ exchange_of_next hnext hack, ⟨exec_inv hloaded .mrgAck _ hack, ?_, rfl⟩, hframes,
    congrArg (· + 1) hidx, htotal⟩
  rw [State.withErr_seq, State.acknowledge_seq]
  split
  · exact .inr rfl
  · exact .inl rfl

/-- From any point of a Flash step, one exchange for each entry left sends the frames left and ends in DONE. -/
theorem Flashing.exchanges {s : State} (h : Flashing s) {n : Nat} (hn : s.seqIdx + n = s.seqFrames.length) :
    ∃ u, exchanges flashDataAck n s = some ((s.seqFrames.drop s.seqIdx).map SeqEntry.frame, u) ∧ Flashing u ∧
      u.seq = .done ∧ u.seqIdx = s.seqFrames.length ∧ u.progTotal = s.progTotal := by
  induction n generalizing s with
  | zero =>
    have hn : s.seqIdx = s.seqFrames.length := hn
    have hdone : s.seq = .done := by
      rcases h.inv.ended.1 hn with hq | hq
      · exact hq
      · exact absurd h.seq (by simp [hq])
    refine ⟨s, ?_, h, hdone, hn, rfl⟩
    rw [List.drop_of_length_le hn.ge]
    rfl
  | succ n ih =>
    have hready : s.seq = .ready := h.seq.resolve_right fun hq => by
      have := h.inv.ended.2 (.inl hq)
      omega
    obtain ⟨e, v, he, hex, hv, hframes, hidx, htotal⟩ := h.exchange hready
    obtain ⟨u, hrest, hu, hdone, hend, htotal'⟩ := ih hv (by rw [hidx, hframes]; omega)
    refine ⟨u, ?_, hu, hdone, by rw [hend, hframes], htotal'.trans htotal⟩
    obtain ⟨hlt, rfl⟩ := List.getElem?_eq_some_iff.1 he
    rw [Machine.exchanges, hex, Option.bind_some, hrest, hframes, hidx, List.drop_eq_getElem_cons hlt]
    rfl

/-- Settles O45: the exchanges start at entry 0 of the plan, and DONE has every byte counted. -/
theorem flashStepSendsThePlanAndCompletes : Obligations.FlashStepSendsThePlanAndCompletes := by
  intro s t h hstart hok
  obtain ⟨hready, hidx⟩ : t.seq = .ready ∧ t.seqIdx = 0 := by
    rcases exec_mrgStart_writes hstart with ⟨e, he, rfl⟩ | ⟨-, rfl⟩
    · exact absurd hok he
    · exact ⟨rfl, rfl⟩
  have hflash : Flashing t := ⟨exec_inv h .mrgStart t hstart, .inl hready, hok⟩
  obtain ⟨u, hex, hu, hdone, hend, htotal⟩ := hflash.exchanges (by rw [hidx, Nat.zero_add])
  rw [hidx, List.drop_zero] at hex
  exact ⟨u, hex, hdone, hend, (progressIsBoundedAndCompleteWhenDone u hu.inv).2 hdone, htotal, hu.err⟩

end Sys2Proof.Machine
end

/-! ## Proofs of the error family: the codes a command completes with, and what an error writes (R191 to R195) -/

section
namespace Sys2Proof.Machine

/-! ### The codes of decode, validate and `STATUS` (R191) -/

theorem ErrCode.code_le (e : ErrCode) : e.code.toNat ≤ 0x10 := by
  cases e <;> decide

theorem decodeFrame_error_mem {f : List Byte} {e : ErrCode} (h : decodeFrame f = .error e) :
    e ∈ [ErrCode.frameShort, .lenMismatch] := by
  rcases decodeFrame_cases f with ⟨-, hd⟩ | ⟨-, hd⟩ | ⟨_, hd, -⟩ <;> cases hd.symm.trans h
  · exact .head _
  · exact .tail _ (.head _)

theorem validate_mem (p : Packet) (ek : Option Byte) (ep : Option (List Byte)) :
    validate p ek ep ∈ [ErrCode.ok, .badMarker, .unexpKind, .unexpPayload, .crcMismatch] := by
  rcases validate_cases p ek ep with ⟨-, hv⟩ | ⟨-, -, hv⟩ | ⟨-, -, -, hv⟩ | ⟨-, -, -, -, hv⟩ | ⟨-, -, -, -, hv⟩ <;>
    rw [hv] <;> decide

/-! ### How a command can end (R193, R195) -/

/-- The ways `i` can end from `s`: with success, with a code of its row and nothing else written, or in one of the
exceptions of R195. Only what success writes besides `CMD` is left open. -/
inductive Completion (i : Instr) (s : State) : State → Prop
  | success {t : State} (herr : t.err = .ok) (hcmd : t.cmd = s.cmd) (hrow : .ok ∈ allowedCodes i) : Completion i s t
  | codeAlone {e : ErrCode} (hrow : e ∈ allowedCodes i) : Completion i s (s.withErr e)
  | decodeError {e : ErrCode} (hi : i = .frmDec) (he : e ∈ [ErrCode.frameShort, .lenMismatch]) :
    Completion i s { s with decValid := false, err := e }
  | ackDecodeError {e : ErrCode} (hi : i = .mrgAck) (he : e ∈ [ErrCode.frameShort, .lenMismatch]) :
    Completion i s { s with decValid := false, seq := .failed, err := e }
  | ackRefused {p : Packet} {e : ErrCode} (hi : i = .mrgAck) (hdec : decodeFrame s.rxbuf = .ok p)
      (he : e ∈ [ErrCode.badMarker, .unexpKind, .unexpPayload, .crcMismatch]) :
    Completion i s { s.storePacket p with seq := .failed, err := e }
  | abort {c : Byte} (hi : i = .mrgAbort c) :
    Completion i s { s with abortCause := c, seq := .failed, err := .hostAbort }

theorem Completion.of_next {i : Instr} {s t u : State} {o : Outcome} (ho : o = .next u) (h : o = .next t)
    (hu : Completion i s u) : Completion i s t :=
  next_unique ho h ▸ hu

theorem unlessActive_completion {i : Instr} {s t : State} {go : State → Outcome} (hrow : .seqState ∈ allowedCodes i)
    (hgo : go s = .next t → Completion i s t) (h : unlessActive s go = .next t) : Completion i s t := by
  rcases eq_or_of_unlessActive h with rfl | h
  · exact .codeAlone hrow
  · exact hgo h

theorem frameKind_completion {i : Instr} {s t : State} {kind : Byte} (hrow : .ok ∈ allowedCodes i)
    (h : frameKind kind s = .next t) : Completion i s t :=
  .of_next (frameKind_eq kind s) h (.success rfl rfl hrow)

theorem validateDecoded_completion {i : Instr} {s t : State} {ek : Option Byte} {ep : Option (List Byte)}
    (hrow : allowedCodes i = [.ok, .noFrame, .badMarker, .unexpKind, .unexpPayload, .crcMismatch])
    (h : validateDecoded ek ep s = .next t) : Completion i s t := by
  refine .of_next (validateDecoded_eq ek ep s) h (.codeAlone ?_)
  rw [hrow]
  split
  · have hsub : [ErrCode.ok, .badMarker, .unexpKind, .unexpPayload, .crcMismatch] ⊆
        [.ok, .noFrame, .badMarker, .unexpKind, .unexpPayload, .crcMismatch] := by decide
    exact hsub (validate_mem s.packet ek ep)
  · decide

theorem replayData_completion {i : Instr} {s t : State} {n : Nat}
    (hrow : allowedCodes i = [.ok, .seqState, .addrRange, .blockFull]) (h : replayData n s = .next t) :
    Completion i s t := by
  rcases replayData_cases n s with ⟨-, hex⟩ | ⟨-, -, hex⟩ | ⟨-, -, hex⟩
  · exact .of_next hex h (.codeAlone (by rw [hrow]; decide))
  · exact .of_next hex h (.codeAlone (by rw [hrow]; decide))
  · exact .of_next hex h (.success rfl rfl (by rw [hrow]; decide))

theorem replay_completion {s t : State} (h : replay s.recType s = .next t) : Completion .imgRec s t := by
  rcases replay_cases s.recType s with ⟨-, hr⟩ | ⟨-, hr⟩ | ⟨-, hr⟩ | ⟨-, -, -, hr⟩
  · exact replayData_completion rfl (hr.symm.trans h)
  · exact .of_next (hr.trans (replaySegment_eq s)) h (.success rfl rfl (.head _))
  · exact .of_next (hr.trans (replayLinear_eq s)) h (.success rfl rfl (.head _))
  · exact .of_next (hr.trans (replayIgnored_eq s)) h (.success rfl rfl (.head _))

theorem exec_mrgAck_completion {s t : State} (h : exec .mrgAck s = .next t) : Completion .mrgAck s t := by
  rcases execMrgAck_cases s with ⟨-, hex⟩ | ⟨x, -, -, hdec, hex⟩ |
    ⟨p, -, hdec, -, -, ⟨hv, hex⟩ | ⟨-, -, hex⟩ | ⟨e, -, -, hex⟩⟩
  · exact .of_next hex h (.codeAlone (by decide))
  · exact .of_next hex h (.ackDecodeError rfl (decodeFrame_error_mem hdec))
  · exact .of_next hex h (.ackRefused rfl hdec ((List.mem_cons.1 (validate_mem _ _ _)).resolve_left hv))
  · cases hex.symm.trans h
  · exact .of_next hex h (.success rfl rfl (.head _))

/-- Every command that ends does so in one of the ways of `Completion`. -/
theorem exec_completion {i : Instr} {s t : State} (h : exec i s = .next t) : Completion i s t := by
  cases i with
  | crcInit | crcByte | crcBuf => exact .of_next (succeed_eq _) h (.success rfl rfl (.head _))
  | frmEnc =>
    rcases execFrmEnc_cases s with ⟨-, hex⟩ | ⟨-, hex⟩
    · exact .of_next hex h (.codeAlone (by decide))
    · exact frameKind_completion (.head _) (hex.symm.trans h)
  | frmDec =>
    rcases execFrmDec_cases s with ⟨e, -, hdec, hex⟩ | ⟨p, -, -, -, hex⟩
    · exact .of_next hex h (.decodeError rfl (decodeFrame_error_mem hdec))
    · exact .of_next hex h (.success rfl rfl (.head _))
  | frmVal | frmVack => exact validateDecoded_completion rfl h
  | imgClr =>
    rcases execImgClr_cases s with ⟨-, hex⟩ | ⟨-, hex⟩
    · exact .of_next hex h (.codeAlone (by decide))
    · exact .of_next hex h (.success rfl rfl (.head _))
  | imgRec => exact unlessActive_completion (by decide) replay_completion h
  | imgWin =>
    rcases execImgWin_cases s with ⟨-, hex⟩ | ⟨-, hex⟩
    · exact .of_next hex h (.codeAlone (by decide))
    · exact .of_next hex h (.success rfl rfl (.head _))
  | imgHash =>
    rcases execImgHash_cases s with ⟨-, hex⟩ | ⟨-, hex⟩
    · exact .of_next hex h (.codeAlone (by decide))
    · exact .of_next hex h (.success rfl rfl (.head _))
  | mrgStart =>
    rcases execMrgStart_cases s with ⟨-, hex⟩ | ⟨-, -, hex⟩ | ⟨-, -, -, hex⟩ | ⟨-, -, -, hex⟩
    · exact .of_next hex h (.codeAlone (by decide))
    · exact .of_next hex h (.codeAlone (by decide))
    · exact .of_next hex h (.codeAlone (by decide))
    · exact .of_next hex h (.success rfl rfl (.head _))
  | mrgNext =>
    rcases exec_mrgNext_writes h with rfl | ⟨-, _, _, _, rfl⟩
    · exact .codeAlone (by decide)
    · exact .success rfl rfl (.head _)
  | mrgAck => exact exec_mrgAck_completion h
  | mrgAbort c =>
    rcases exec_mrgAbort_writes h with rfl | ⟨-, rfl⟩
    · exact .codeAlone (.head _)
    · exact .abort rfl
  | kindInvalid | kindFlashStart | kindFlashData | kindFlashMac | kindValidateFlash | kindSendSignature =>
    exact frameKind_completion (.head _) h
  | recData => exact unlessActive_completion (by decide) (replayData_completion rfl) h
  | recExtSegment =>
    exact unlessActive_completion (by decide) (fun h => .of_next (replaySegment_eq s) h (.success rfl rfl (.head _))) h
  | recExtLinear =>
    exact unlessActive_completion (by decide) (fun h => .of_next (replayLinear_eq s) h (.success rfl rfl (.head _))) h
  | recEof | recStartSegment | recStartLinear =>
    exact unlessActive_completion (by decide) (fun h => .of_next (replayIgnored_eq s) h (.success rfl rfl (.head _))) h

/-! ### The codes of each row (R191, R193) -/

theorem Completion.err_mem {i : Instr} {s t : State} (h : Completion i s t) : t.err ∈ allowedCodes i := by
  cases h with
  | success herr _ hrow => rwa [herr]
  | codeAlone hrow => exact hrow
  | decodeError hi he =>
    have hrow : [ErrCode.frameShort, .lenMismatch] ⊆ allowedCodes .frmDec := by decide
    exact hi ▸ hrow he
  | ackDecodeError hi he =>
    have hrow : [ErrCode.frameShort, .lenMismatch] ⊆ allowedCodes .mrgAck := by decide
    exact hi ▸ hrow he
  | ackRefused hi _ he =>
    have hrow : [ErrCode.badMarker, .unexpKind, .unexpPayload, .crcMismatch] ⊆ allowedCodes .mrgAck := by decide
    exact hi ▸ hrow he
  | abort hi =>
    subst hi
    exact .tail _ (.head _)

theorem status_err_le (s : State) : (readReg .status s).toNat % 256 ≤ 0x10 := by
  have hword : (readReg .status s).toNat = _ := statusWord_toNat s
  have hcode := s.err.code_le
  omega

/-- Settles O47: each way to end has its codes in the row, and `STATUS.ERR` holds the number of a code. -/
theorem commandsCompleteWithTheirOwnCodes : Obligations.CommandsCompleteWithTheirOwnCodes :=
  ⟨fun _ _ _ h => (exec_completion h).err_mem, status_err_le, by decide⟩

/-! ### What an error writes (R195) -/

theorem Completion.cmd_eq {i : Instr} {s t : State} (h : Completion i s t) : t.cmd = s.cmd := by
  cases h with
  | success _ hcmd _ => exact hcmd
  | _ => rfl

theorem issue_keeps_cmd {w : Word} {s t : State} (h : issue w s = .next t) : t.cmd = s.cmd := by
  unfold issue at h
  split at h
  · exact (exec_completion h).cmd_eq
  · obtain rfl := next_unique (raise_eq _ s) h
    rfl

/-- Settles O48: no command writes `CMD`, which the host's write has set, and each way to end with an error is one of
the cases of R195. -/
theorem errorsChangeNothingElse : Obligations.ErrorsChangeNothingElse := by
  refine ⟨fun s t w rest hpending hstep => ?_, fun i s t h hne => ?_⟩
  · have hissue : issue w { s.withPending rest with cmd := w } = .next t :=
      ((step_of_pending hpending).trans (hostWrite_cmd w _)).symm.trans hstep
    exact issue_keeps_cmd hissue
  · cases exec_completion h with
    | success herr _ _ => exact absurd herr hne
    | codeAlone _ => exact .inl rfl
    | decodeError hi he => exact .inr (.inl ⟨hi, he, rfl⟩)
    | ackDecodeError hi he => exact .inr (.inr (.inl ⟨hi, he, rfl⟩))
    | ackRefused hi hdec he => exact .inr (.inr (.inr (.inl ⟨hi, he, _, hdec, rfl⟩)))
    | abort hi => exact .inr (.inr (.inr (.inr ⟨_, hi, rfl, rfl⟩)))

end Sys2Proof.Machine
end

/-! ## Proofs of the reset and hazards family: what the commands do not see (R112, R230, R231) -/

section
namespace Sys2Proof.Machine

/-! ### A change of the state that a command does not see -/

/-- The command `f` does not see the change `u`: made before `f`, it is the same change made after `f`. -/
def Ignores (f : State → Outcome) (u : State → State) : Prop := ∀ s, f (u s) = mapNext u (f s)

theorem ite_eq_mapNext {u : State → State} {c : Prop} [Decidable c] {a b a' b' : Outcome} (ha : a' = mapNext u a)
    (hb : b' = mapNext u b) : (if c then a' else b') = mapNext u (if c then a else b) := by
  rw [ha, hb, apply_ite (mapNext u)]

/-- Where the change has no effect before the command, it has none after it: so the command writes nothing of what `u`
sets. -/
theorem Ignores.next_unchanged {f : State → Outcome} {u : State → State} (h : Ignores f u) {s t : State} (hs : u s = s)
    (ht : f s = .next t) : u t = t := by
  have hf := h s
  rw [hs, ht] at hf
  exact (Host.Outcome.next.inj hf).symm

/-! ### What `MRG.NEXT` and `MRG.ACK` do not see (R167, R168, R230) -/

/-- The change `u` touches nothing that `MRG.NEXT` and `MRG.ACK` read, and commutes with each of their writes. For an
update of other fields each clause holds by definition. -/
structure SparesSequence (u : State → State) : Prop where
  seq (s : State) : (u s).seq = s.seq := by intro; rfl
  due (s : State) : (u s).seqFrames[(u s).seqIdx]? = s.seqFrames[s.seqIdx]? := by intro; rfl
  rxbuf (s : State) : (u s).rxbuf = s.rxbuf := by intro; rfl
  packet (s : State) : (u s).packet = s.packet := by intro; rfl
  withErr (s : State) (e : ErrCode) : (u s).withErr e = u (s.withErr e) := by intros; rfl
  send (s : State) (e : SeqEntry) :
    { (u s).storeTx e.frame with cursor := if e.tag = .firmware then e.addr else (u s).cursor, seq := .await } =
      u { s.storeTx e.frame with cursor := if e.tag = .firmware then e.addr else s.cursor, seq := .await } := by
        intros; rfl
  dropPacket (s : State) :
    { u s with decValid := false, seq := .failed } = u { s with decValid := false, seq := .failed } := by intro; rfl
  storePacket (s : State) (p : Packet) : (u s).storePacket p = u (s.storePacket p) := by intros; rfl
  fail (s : State) : { u s with seq := .failed } = u { s with seq := .failed } := by intro; rfl
  acknowledge (s : State) (e : SeqEntry) : (u s).acknowledge e = u (s.acknowledge e) := by intros; rfl

namespace SparesSequence
variable {u : State → State} (h : SparesSequence u)
include h

theorem raise_eq_mapNext {s t : State} (ht : t = u s) (e : ErrCode) : raise e t = mapNext u (raise e s) :=
  ht ▸ congrArg Host.Outcome.next (h.withErr s e)

theorem succeed_eq_mapNext {s t : State} (ht : t = u s) : succeed t = mapNext u (succeed s) :=
  h.raise_eq_mapNext ht .ok

theorem execMrgNext_ignores : Ignores execMrgNext u := by
  intro s
  unfold execMrgNext
  rw [h.seq, h.due]
  refine ite_eq_mapNext (h.raise_eq_mapNext rfl _) ?_
  cases s.seqFrames[s.seqIdx]? with
  | none => rfl
  | some e => exact ite_eq_mapNext rfl (h.succeed_eq_mapNext (h.send s e))

theorem acceptAck_ignores : Ignores acceptAck u := by
  intro s
  unfold acceptAck
  rw [h.packet, h.due]
  cases validate s.packet (some Config.kindFlashData) (some ackPayload) with
  | ok =>
    cases s.seqFrames[s.seqIdx]? with
    | none => rfl
    | some e => exact h.succeed_eq_mapNext (h.acknowledge s e)
  | _ => exact h.raise_eq_mapNext (h.fail s) _

theorem execMrgAck_ignores : Ignores execMrgAck u := by
  intro s
  unfold execMrgAck
  rw [h.seq, congrArg decodeFrame (h.rxbuf s)]
  refine ite_eq_mapNext (h.raise_eq_mapNext rfl _) ?_
  cases decodeFrame s.rxbuf with
  | error e => exact h.raise_eq_mapNext (h.dropPacket s) e
  | ok p => exact (congrArg acceptAck (h.storePacket s p)).trans (h.acceptAck_ignores _)

theorem exec_eq_mapNext {i : Instr} (hi : i = .mrgNext ∨ i = .mrgAck) {s t : State} (ht : t = u s) :
    exec i t = mapNext u (exec i s) := by
  rw [ht]
  rcases hi with rfl | rfl
  · exact h.execMrgNext_ignores s
  · exact h.execMrgAck_ignores s

end SparesSequence

/-- Settles O43: the block store, the configuration, the record registers, RDBUF, the base and the window are none of the
fields a started sequence reads or writes, so a change of them spares it. -/
theorem sequenceIsASnapshot : Obligations.SequenceIsASnapshot := by
  intro i s blk maxp cs offset value type data marker base lo hi hseq
  refine SparesSequence.exec_eq_mapNext ?_ hseq rfl
  exact {}

/-! ### What the commands outside the CRC sub-unit do not see: the CRC registers (R112, R231) -/

/-- `s` with other values in the three CRC registers. -/
def State.withCrc (acc poly init : Half) (s : State) : State :=
  { s with crcAcc := acc, crcPoly := poly, crcInit := init }

section
variable {acc poly init : Half}

theorem unlessActive_ignores_crc {go : State → Outcome} (h : Ignores go (.withCrc acc poly init)) :
    Ignores (unlessActive · go) (.withCrc acc poly init) :=
  fun s => ite_eq_mapNext rfl (h s)

theorem execFrmDec_ignores_crc : Ignores execFrmDec (.withCrc acc poly init) := by
  intro s
  have hrx : (s.withCrc acc poly init).rxbuf = s.rxbuf := rfl
  unfold execFrmDec
  rw [hrx]
  cases decodeFrame s.rxbuf with
  | error e => rfl
  | ok p => rfl

theorem validateDecoded_ignores_crc (ek : Option Byte) (ep : Option (List Byte)) :
    Ignores (validateDecoded ek ep) (.withCrc acc poly init) := fun s => by
  rw [validateDecoded_eq, validateDecoded_eq]
  rfl

theorem replayData_ignores_crc (n : Nat) : Ignores (replayData n) (.withCrc acc poly init) :=
  fun _ => ite_eq_mapNext rfl (ite_eq_mapNext rfl rfl)

theorem replay_ignores_crc (c : Byte) : Ignores (replay c) (.withCrc acc poly init) := by
  intro s
  unfold replay
  split
  · exact replayData_ignores_crc _ s
  · rfl
  · rfl
  · rfl

/-- A check that reads no CRC register chooses the same branch, and each branch writes none. -/
theorem exec_ignores_crc {i : Instr} (hi : usesCrcRegisters i = false) : Ignores (exec i) (.withCrc acc poly init) := by
  cases i with
  | crcInit | crcByte | crcBuf => cases hi
  | frmEnc | imgWin | imgHash | mrgAbort => exact fun _ => ite_eq_mapNext rfl rfl
  | frmDec => exact execFrmDec_ignores_crc
  | frmVal | frmVack => exact fun s => validateDecoded_ignores_crc _ _ s
  | imgClr | recExtSegment | recExtLinear | recEof | recStartSegment | recStartLinear =>
    exact unlessActive_ignores_crc fun _ => rfl
  | imgRec => exact unlessActive_ignores_crc fun s => replay_ignores_crc s.recType s
  | mrgStart => exact unlessActive_ignores_crc fun _ => ite_eq_mapNext (ite_eq_mapNext rfl rfl) rfl
  | mrgNext => exact SparesSequence.execMrgNext_ignores {}
  | mrgAck => exact SparesSequence.execMrgAck_ignores {}
  | kindInvalid | kindFlashStart | kindFlashData | kindFlashMac | kindValidateFlash | kindSendSignature =>
    exact fun _ => rfl
  | recData => exact unlessActive_ignores_crc (replayData_ignores_crc _)

end

/-- Settles O15: no such command sees a change of the CRC registers, and from the change to their own values it follows
that it leaves them as they are. -/
theorem otherCommandsIgnoreTheCrcRegisters : Obligations.OtherCommandsIgnoreTheCrcRegisters := by
  intro i s acc poly init hi
  refine ⟨exec_ignores_crc hi s, fun t ht => ?_⟩
  have hkeep : t.withCrc s.crcAcc s.crcPoly s.crcInit = t := (exec_ignores_crc hi).next_unchanged rfl ht
  rw [← hkeep]
  exact ⟨rfl, rfl, rfl⟩

end Sys2Proof.Machine
end
